-- ==== Sys2Proof/Word.lean ====
section
/-! DEFINITION. The word, byte and selector types of the core (00_scope.md R7, R8) and the register
value whose two bytes may each be undefined (10_state.md R21). -/
namespace Sys2Proof

/-- One byte of a register: bits 15:8 or bits 7:0 (R21, R40). -/
abbrev Byte := BitVec 8

/-- A register, data word, instruction word or address: 16 bits, arithmetic modulo 2^16 (R7, R9, R43). -/
abbrev Word := BitVec 16

/-- A 3-bit register selector, naming `r0` to `r7` (R16, R17). -/
abbrev RegSel := BitVec 3

/-- A 16-bit value each of whose bytes is defined (`some`) or undefined (`none`): R21.
The `Option` is the spec's own state (a LOAD of an undefined data word makes it, R39). -/
structure RegVal where
  /-- Bits 15:8. -/
  hi : Option Byte
  /-- Bits 7:0. -/
  lo : Option Byte
  deriving DecidableEq, Repr

/-- Both bytes undefined. -/
def RegVal.undef : RegVal := ⟨none, none⟩

/-- A value both of whose bytes are defined. -/
def RegVal.ofWord (w : Word) : RegVal := ⟨some (w.extractLsb' 8 8), some (w.extractLsb' 0 8)⟩

/-- The 16-bit value, where both bytes are defined (R21: "A register is defined when both of its
bytes are"). -/
def RegVal.word? (v : RegVal) : Option Word :=
  match v.hi, v.lo with
  | some h, some l => some (h ++ l)
  | _, _ => none

/-- The value of a 16-bit quantity that may be undefined as a whole. -/
def RegVal.ofOption (w : Option Word) : RegVal :=
  match w with
  | some w => RegVal.ofWord w
  | none => RegVal.undef

end Sys2Proof
end

