-- ==== Sys2Proof/Config.lean ====
section
/-! DEFINITION. What the spec leaves to the implementation or leaves free: the open parameter
LOGIC_CV (R7, R76), the device draw (R96, 93 section 1), the free choices of the instruction level
(R115, R143), and the reset value of a register and of a flag. The platform parameters IMEM_ALIAS and IO_MAP are plain data and stand
in State (Machine/State.lean, `Platform`); the opcode map is in Decode.lean. -/
namespace Sys2Proof

/-- The four logic functions whose C and V the spec leaves open (R76). -/
inductive LogicOp where
  | and
  | or
  | xor
  | not
  deriving DecidableEq, Repr

/-- `LOGIC_CV(op, A, R)`: the pair (C, V) after a logic operation (R76, D11). It has no body: nothing is
known of it but that it depends on its arguments alone. `R` is a port value and may hold undefined
bytes, because NOT passes a port-B value it does not use (R84). Log entry 3. -/
opaque Config.logicCV : LogicOp → Word → RegVal → Bool × Bool

/-- The word that the `n`-th device draw returns when it is made at address `a` (R96 corner case 3 and
93_implementation_defined.md: "any value (device draw, an input of the step)"). Free value, no body.
Log entry 4. -/
opaque Config.deviceDraw : Nat → Word → Word

/-- The `n`-th free choice of the instruction level: which of the values the spec allows is taken
(R115 the halt hedge, R143 the stale instruction words). Free value, no body. Log entry 5. -/
opaque Config.freeChoice : Nat → Nat

/-- What every general register holds after reset. R35 says "undefined", which is no value.
DESIGN CHOICE, unsafe: 0x0000. Log entry 1. -/
def Config.resetRegister : RegVal := RegVal.ofWord 0

/-- What every flag holds after reset. R35 says "undefined", which is no value.
DESIGN CHOICE, unsafe: 0. Log entry 2. -/
def Config.resetFlag : Option Bool := some false

end Sys2Proof
end

