-- ==== Sys2Proof/Machine/State.lean ====
section
/-! DEFINITION. The state of the core as plain data: registers, flags, PC, the control word, the four
pipeline registers, the memories, the platform parameters, the stops, and the state after reset
(10_state.md R17 to R35, 20_memory.md R36 to R46, 30_encoding.md R62 and R64). -/
namespace Sys2Proof.Machine

/-- The flags register (R22). Each flag is a defined bit or undefined (`none`), the spec's own state. -/
structure Flags where
  c : Option Bool
  z : Option Bool
  v : Option Bool
  n : Option Bool
  deriving DecidableEq, Repr

/-- Control field 2: the right ALU operand (R57). -/
inductive SelRight where
  | regB
  | imm5
  | imm5Split
  | imm11
  deriving DecidableEq, Repr

/-- Control field 3: the store operand (R58). -/
inductive SelStore where
  | regB
  | pcLink
  | imm8Lo
  | imm8Hi
  deriving DecidableEq, Repr

/-- Control field 4: the ALU function (R73). -/
inductive AluOp where
  | add
  | sub
  | logic (op : LogicOp)
  | passR
  | none
  deriving DecidableEq, Repr

/-- Control field 12: what WB writes, the ALU result or the data bus (R62, 90_conflicts.md C6). -/
inductive WbSrc where
  | alu
  | bus
  deriving DecidableEq, Repr

/-- Control field 18: the fault that EX raises for this instruction (R62, R117). -/
inductive CtlFault where
  /-- Opcode 19 or 23 (R116). -/
  | illegalOpcode (op : BitVec 5)
  /-- The word fetched at `addr` was undefined (R68). -/
  | undefinedInstructionWord (addr : Word)
  /-- A flag that the decode row reads was undefined (R66). -/
  | undefinedFlags
  deriving DecidableEq, Repr

/-- The control word: the 18 fields of R62, in its order. `true` means asserted, or "yes". -/
structure ControlWord where
  hlt : Bool
  selRight : SelRight
  selStore : SelStore
  aluOp : AluOp
  cin : Bool
  fi : Bool
  j : Bool
  jabs : Bool
  memLoad : Bool
  memStore : Bool
  assertStoreOp : Bool
  wbSrc : WbSrc
  writeLo : Bool
  writeHi : Bool
  wben : Bool
  usesA : Bool
  usesB : Bool
  fault : Option CtlFault
  deriving DecidableEq, Repr

/-- `NOPCTL`, the NOP control word (R64). -/
def nopCtl : ControlWord where
  hlt := false
  selRight := .regB
  selStore := .regB
  aluOp := .none
  cin := false
  fi := false
  j := false
  jabs := false
  memLoad := false
  memStore := false
  assertStoreOp := false
  wbSrc := .alu
  writeLo := false
  writeHi := false
  wben := false
  usesA := false
  usesB := false
  fault := none

/-- IF/ID (R27). `ins = none` is a word fetched from an undefined instruction-memory word (R39). -/
structure IfId where
  ins : Option Word
  pc : Word
  /-- The associated-program-counter tag (R28). -/
  tag : Option Word
  deriving DecidableEq, Repr

/-- ID/EX (R27). A data field that R135 leaves undefined is `none` (log entry 14). -/
structure IdEx where
  ctl : ControlWord
  a : RegVal
  b : RegVal
  ins : Option Word
  pc : Option Word
  selC : Option RegSel
  tag : Option Word
  deriving DecidableEq, Repr

/-- EX/MEM (R27). -/
structure ExMem where
  ctl : ControlWord
  y : Option Word
  sop : RegVal
  selC : Option RegSel
  pc : Option Word
  tag : Option Word
  deriving DecidableEq, Repr

/-- MEM/WB (R27). -/
structure MemWb where
  ctl : ControlWord
  y : Option Word
  d : RegVal
  selC : Option RegSel
  pc : Option Word
  tag : Option Word
  deriving DecidableEq, Repr

/-- IF/ID after reset: a bubble fetched at 0 (R35). -/
def IfId.bubble : IfId := ⟨some 0, 0, none⟩

/-- ID/EX holding a bubble (R15, R35, R135). -/
def IdEx.bubble : IdEx := ⟨nopCtl, .undef, .undef, none, none, none, none⟩

/-- EX/MEM after reset (R35). -/
def ExMem.bubble : ExMem := ⟨nopCtl, none, .undef, none, none, none⟩

/-- MEM/WB after reset (R35). -/
def MemWb.bubble : MemWb := ⟨nopCtl, none, .undef, none, none, none⟩

/-- A word-addressed memory as cells: the word at address `a` has its bits 7:0 in cell `2a` and its bits 15:8 in
cell `2a + 1`; an unlisted cell is undefined (R39). Byte order is not observable (R40). Log entry 7. -/
abbrev Memory := List Host.Cell

/-- A window of data addresses, `first` to `last` inclusive. -/
structure Window where
  first : Word
  last : Word
  deriving DecidableEq, Repr

/-- A window of data addresses whose stores reach instruction memory, `first` at `target` (R46). -/
structure AliasWindow where
  first : Word
  last : Word
  target : Word
  deriving DecidableEq, Repr

/-- The open platform parameters, as plain data that no step changes (R45, R46). Log entry 13. -/
structure Platform where
  /-- IMEM_ALIAS: the first window that holds an address decides. -/
  imemAlias : List AliasWindow
  /-- Whether a store through IMEM_ALIAS also writes data memory (R46: "a further parameter"). -/
  aliasWritesData : Bool
  /-- IO_MAP. -/
  ioMap : List Window
  deriving DecidableEq, Repr

/-- The default platform: IMEM_ALIAS defined nowhere and IO_MAP empty (R7). -/
def Platform.default : Platform := ⟨[], false, []⟩

/-- Where a fault was raised: address and word of the instruction in EX (R117). -/
structure FaultSite where
  pc : Option Word
  ins : Option Word
  deriving DecidableEq, Repr

/-- Which internal check failed (R69, R117, R133). -/
inductive InternalCause where
  /-- MEM was asked to load and to assert the store operand (R69 (1), R133). -/
  | loadAndAssertStoreOp
  /-- MEM was asked to load and to store (R69 (2), R133). -/
  | loadAndStore
  /-- `wbSrc = BUS` in a control word that drives nothing onto the bus (R69 (4)). -/
  | busNotDriven
  /-- MEM was asked for an access at an undefined address, or to store an undefined word. -/
  | undefinedAccess
  /-- EX was asked to jump to an undefined target. -/
  | undefinedTarget
  deriving DecidableEq, Repr

/-- The stops. The five kinds of R117 and the stop after HLT; terminal until reset (R118, R128). -/
inductive Fault where
  /-- Raised for opcodes 19 and 23 (R116), by the instruction fetch and by EX. The spec's own fault, safe. -/
  | illegalOpcode (op : BitVec 5) (site : FaultSite)
  /-- Raised when the instruction to execute was fetched from an undefined word (R68). The spec's own fault, safe. -/
  | undefinedInstructionWord (addr : Word) (site : FaultSite)
  /-- Raised by a branch, ADC or SBC that reads an undefined flag (R66). The spec's own fault, safe. -/
  | undefinedFlags (site : FaultSite)
  /-- Raised by an instruction that uses register `i` while a byte of it is undefined (R21). The spec's own fault, safe. -/
  | undefinedRegister (i : RegSel) (site : FaultSite)
  /-- Raised by MEM or EX on a control word that breaks R69 or on an undefined address, store word or target:
  unreachable from reset. The spec's own fault, safe. -/
  | internalError (cause : InternalCause) (site : FaultSite)
  /-- Raised by step while `halted` is set: no further cycle executes (R30; 93: "stuck until reset"). Safe. -/
  | halted
  deriving DecidableEq, Repr

/-- Why a step is refused. -/
inductive Refusal where
  /-- Raised by an arm of exec whose instruction has no meaning yet. Safe. -/
  | notModelled (mnemonic : String)
  /-- Raised by step while the MEM input `ready` is true: the spec says to refuse such a cycle (R31). Safe. -/
  | memNotReady
  /-- Raised by step at the instruction level while an instruction is in flight in the pipeline: the instruction level
  has no pipeline (R5, R12). Unreachable from reset at that level. Safe. -/
  | pipelineBusy
  deriving DecidableEq, Repr

/-- The level at which a step runs the machine (R5). Log entry 6. -/
inductive Stepping where
  /-- One instruction, by the rules of files 40 to 44. -/
  | instruction
  /-- One clock cycle, by 70_reset_and_hazards.md. -/
  | cycle
  deriving DecidableEq, Repr

/-- What the instruction just executed would lose if the next one halts the core (R115): the register it
wrote with the value that register held before, and its place in the retirement count. -/
structure Prior where
  write : Option (RegSel × RegVal)
  deriving DecidableEq, Repr

/-- An instruction word rewritten by a store through IMEM_ALIAS: the next `left` instructions may still run
the old word (R51, R143). -/
structure StaleWord where
  addr : Word
  old : Option Word
  left : Nat
  deriving DecidableEq, Repr

/-- The whole machine. The fields from `stepping` on are the model's own; the others are the spec's. -/
structure State where
  /-- r0 to r7 (R17, R21). -/
  regs : Vector RegVal 8
  /-- C, Z, V, N (R22). -/
  flags : Flags
  /-- The IF stage's PC (R25); at the instruction level the address of the next instruction (R12). -/
  pc : Word
  ifid : IfId
  idex : IdEx
  exmem : ExMem
  memwb : MemWb
  /-- R30. -/
  halted : Bool
  /-- The `Faulted` stop (R118). -/
  faulted : Option Fault
  /-- The reset input, `true` while asserted (R129). -/
  rst : Bool
  /-- The level of MEM's `ready` input; active when false (R31). -/
  ready : Bool
  /-- Elapsed cycles (R34). -/
  cycles : Nat
  /-- Retired instructions (R34, R132). -/
  retired : Nat
  /-- Instruction memory (R37). -/
  imem : Memory
  /-- Data memory (R38). -/
  dmem : Memory
  /-- IMEM_ALIAS and IO_MAP (R45, R46). -/
  platform : Platform
  /-- The event history, oldest first (R45). -/
  events : List (Word × Word)
  /-- How many device draws were made (R96, R142). -/
  draws : Nat
  stepping : Stepping
  /-- The word the instruction level is executing, the counterpart of `IDEX.ins`. -/
  ir : Word
  prior : Option Prior
  stale : List StaleWord
  /-- How many free choices were made. -/
  choices : Nat
  deriving DecidableEq, Repr

/-- The reset table of R35, with the value of a register and of a flag as arguments (R35 says "undefined" of
both) and the memories, which reset keeps. -/
def State.resetTable (reg : RegVal) (flag : Option Bool) (imem dmem : Memory) : State where
  regs := Vector.replicate 8 reg
  flags := ⟨flag, flag, flag, flag⟩
  pc := 0
  ifid := .bubble
  idex := .bubble
  exmem := .bubble
  memwb := .bubble
  halted := false
  faulted := none
  rst := false
  ready := false
  cycles := 0
  retired := 0
  imem := imem
  dmem := dmem
  platform := .default
  events := []
  draws := 0
  stepping := .instruction
  ir := 0
  prior := none
  stale := []
  choices := 0

/-- The machine right after reset (R35, R129): registers and flags at the values Config names (log entries 1 and 2),
every memory word undefined (R39). -/
def State.reset : State := State.resetTable Config.resetRegister Config.resetFlag [] []

end Sys2Proof.Machine
end

