-- ==== Sys2Proof/Machine/Flags.lean ====
section
/-! DEFINITION. The ALU and its flags (40_alu_register.md R73 to R76) and the branch conditions (43 R103). -/
namespace Sys2Proof.Machine

/-- What the ALU gives: the result and the four raw flags. -/
structure AluOut where
  y : Word
  c : Bool
  z : Bool
  v : Bool
  n : Bool
  deriving DecidableEq, Repr

/-- Whether an integer is outside -32768..32767 (R73). -/
def signedOverflow (x : Int) : Bool := decide (x < -32768 ∨ 32767 < x)

/-- The ALU function ADD (R73). -/
def aluAdd (a r : Word) (cin : Bool) : AluOut :=
  let s := a.toNat + r.toNat + cin.toNat
  let y := BitVec.ofNat 16 s
  { y := y
    c := decide (2 ^ 16 ≤ s)
    z := y == 0
    v := signedOverflow (a.toInt + r.toInt + cin.toNat)
    n := y.msb }

/-- The ALU function SUB, `A + ~R + cin` (R73). -/
def aluSub (a r : Word) (cin : Bool) : AluOut :=
  let s := a.toNat + (~~~r).toNat + cin.toNat
  let y := BitVec.ofNat 16 s
  { y := y
    c := decide (2 ^ 16 ≤ s)
    z := y == 0
    v := signedOverflow (a.toInt - r.toInt - (1 - (cin.toNat : Int)))
    n := y.msb }

/-- The result of a logic function of one defined operand `a` and a right operand `r`, where it is defined.
NOT does not use `r` (R73). -/
def logicValue (op : LogicOp) (a : Word) (r : RegVal) : Option Word :=
  match op with
  | .and => r.word?.map fun b => a &&& b
  | .or => r.word?.map fun b => a ||| b
  | .xor => r.word?.map fun b => a ^^^ b
  | .not => some (~~~a)

/-- The ALU output of a logic function with result `y`: Z and N exact, C and V from LOGIC_CV (R76). -/
def logicOut (op : LogicOp) (a : Word) (r : RegVal) (y : Word) : AluOut :=
  { y := y
    c := (Config.logicCV op a r).1
    z := y == 0
    v := (Config.logicCV op a r).2
    n := y.msb }

/-- All four flags at the ALU's outputs (R74). -/
def AluOut.flags (o : AluOut) : Flags := ⟨some o.c, some o.z, some o.v, some o.n⟩

/-- What EX's ALU drives: a result and raw flags, undefined where R73 leaves them so. -/
structure RawAlu where
  y : Option Word
  flags : Flags
  deriving DecidableEq, Repr

/-- The raw output of an ALU function that is defined. -/
def AluOut.raw (o : AluOut) : RawAlu := ⟨some o.y, o.flags⟩

/-- No defined output. -/
def RawAlu.undef : RawAlu := ⟨none, ⟨none, none, none, none⟩⟩

/-- A function of the ALU on operands that may hold undefined bytes: undefined unless what it uses is defined. -/
def aluOnDefined (f : Word → Word → AluOut) (a r : RegVal) : RawAlu :=
  match a.word?, r.word? with
  | some a, some r => (f a r).raw
  | _, _ => .undef

/-- `ALU(aluOp, A, R, cin)` (R73). PASSR leaves C and V unspecified and NONE leaves `y` undefined; no row that uses
them latches the flags or `y` (log entry 14). -/
def alu (op : AluOp) (a r : RegVal) (cin : Bool) : RawAlu :=
  match op with
  | .add => aluOnDefined (fun a r => aluAdd a r cin) a r
  | .sub => aluOnDefined (fun a r => aluSub a r cin) a r
  | .logic op =>
    match a.word? with
    | none => .undef
    | some x =>
      match logicValue op x r with
      | none => .undef
      | some y => (logicOut op x r y).raw
  | .passR => ⟨r.word?, ⟨none, r.word?.map (· == 0), none, r.word?.map BitVec.msb⟩⟩
  | .none => .undef

/-- BEQ: `Z = 1` (R103). An undefined flag that the condition reads gives no answer. -/
def condEq (f : Flags) : Option Bool := f.z

/-- BNE: `Z = 0`. -/
def condNe (f : Flags) : Option Bool := f.z.map (!·)

/-- BLT: `N != V`. -/
def condLt (f : Flags) : Option Bool :=
  match f.n, f.v with
  | some n, some v => some (n != v)
  | _, _ => none

/-- BGT: `Z = 0 and N = V`; it reads all three (R103, R111). -/
def condGt (f : Flags) : Option Bool :=
  match f.z, f.n, f.v with
  | some z, some n, some v => some (!z && n == v)
  | _, _, _ => none

/-- BLTU: `C = 0`. -/
def condLtu (f : Flags) : Option Bool := f.c.map (!·)

/-- BGTU: `C = 1 and Z = 0`; it reads both (R103, R113). -/
def condGtu (f : Flags) : Option Bool :=
  match f.c, f.z with
  | some c, some z => some (c && !z)
  | _, _ => none

end Sys2Proof.Machine
end

