-- ==== Sys2Proof/Syntax.lean ====
section
/-! DEFINITION. The 30 instructions (30_encoding.md R59, R70). Every operand is the field of the instruction
word that R54 and R55 give the instruction's format, so every term can be encoded. -/
namespace Sys2Proof

/-- One constructor per row of spec/opcode_table.json, in the table's order. Operand order is that of
R70: destination, then port A, then port B or the immediate; STORE names its data register first. -/
inductive Instr where
  /-- R114. -/
  | nop
  /-- R115. -/
  | hlt
  /-- R96: `rd <- Mem[ra + sext_5(imm5)]`. -/
  | load (rd ra : RegSel) (imm5 : BitVec 5)
  /-- R97: `Mem[ra + sext_5(imm5s)] <- rb`. -/
  | store (rb ra : RegSel) (imm5s : BitVec 5)
  /-- R94. -/
  | li (rd : RegSel) (imm8 : BitVec 8)
  /-- R95. -/
  | lui (rd : RegSel) (imm8 : BitVec 8)
  /-- R87. -/
  | cmp (ra rb : RegSel)
  /-- R79. -/
  | add (rd ra rb : RegSel)
  /-- R80. -/
  | sub (rd ra rb : RegSel)
  /-- R81. -/
  | and (rd ra rb : RegSel)
  /-- R82. -/
  | or (rd ra rb : RegSel)
  /-- R83. -/
  | xor (rd ra rb : RegSel)
  /-- R84. -/
  | not (rd ra : RegSel)
  /-- R93. -/
  | cmpi (ra : RegSel) (imm5 : BitVec 5)
  /-- R88. -/
  | addi (rd ra : RegSel) (imm5 : BitVec 5)
  /-- R89. -/
  | subi (rd ra : RegSel) (imm5 : BitVec 5)
  /-- R90. -/
  | andi (rd ra : RegSel) (imm5 : BitVec 5)
  /-- R91. -/
  | ori (rd ra : RegSel) (imm5 : BitVec 5)
  /-- R92. -/
  | xori (rd ra : RegSel) (imm5 : BitVec 5)
  /-- R105. -/
  | jmp (imm11 : BitVec 11)
  /-- R106. -/
  | jr (ra : RegSel) (imm5 : BitVec 5)
  /-- R107. -/
  | jalr (rd ra : RegSel) (imm5 : BitVec 5)
  /-- R108. -/
  | beq (imm11 : BitVec 11)
  /-- R109. -/
  | bne (imm11 : BitVec 11)
  /-- R110. -/
  | blt (imm11 : BitVec 11)
  /-- R111. -/
  | bgt (imm11 : BitVec 11)
  /-- R112. -/
  | bltu (imm11 : BitVec 11)
  /-- R113. -/
  | bgtu (imm11 : BitVec 11)
  /-- R85. -/
  | adc (rd ra rb : RegSel)
  /-- R86. -/
  | sbc (rd ra rb : RegSel)
  deriving DecidableEq, Repr

end Sys2Proof
end

