-- ==== Sys2Proof/WellFormed.lean ====
section
/-! DEFINITION. The mnemonics and the nine formats (30_encoding.md R55, R59), and when an instruction WORD is
well-formed: its opcode is assigned and its ignored bits are 0. Every term of `Instr` is encodable, its
operands being bit fields of the widths R54 gives, so the checks are on words. -/
namespace Sys2Proof

/-- The 30 assigned mnemonics of R59. -/
inductive Mnemonic where
  | nop | hlt | load | store | li | lui | cmp | add | sub | and | or | xor | not | cmpi | addi
  | subi | andi | ori | xori | jmp | jr | jalr | beq | bne | blt | bgt | bltu | bgtu | adc | sbc
  deriving DecidableEq, Repr

/-- The mnemonic of an instruction. -/
def Instr.mnemonic (i : Instr) : Mnemonic :=
  match i with
  | .nop => .nop
  | .hlt => .hlt
  | .load _ _ _ => .load
  | .store _ _ _ => .store
  | .li _ _ => .li
  | .lui _ _ => .lui
  | .cmp _ _ => .cmp
  | .add _ _ _ => .add
  | .sub _ _ _ => .sub
  | .and _ _ _ => .and
  | .or _ _ _ => .or
  | .xor _ _ _ => .xor
  | .not _ _ => .not
  | .cmpi _ _ => .cmpi
  | .addi _ _ _ => .addi
  | .subi _ _ _ => .subi
  | .andi _ _ _ => .andi
  | .ori _ _ _ => .ori
  | .xori _ _ _ => .xori
  | .jmp _ => .jmp
  | .jr _ _ => .jr
  | .jalr _ _ _ => .jalr
  | .beq _ => .beq
  | .bne _ => .bne
  | .blt _ => .blt
  | .bgt _ => .bgt
  | .bltu _ => .bltu
  | .bgtu _ => .bgtu
  | .adc _ _ _ => .adc
  | .sbc _ _ _ => .sbc

/-- The nine formats of R55. -/
inductive Format where
  | n | rrr | rr | crr | rri | ri | s | ri8 | i11
  deriving DecidableEq, Repr

/-- The format column of R59. -/
def Mnemonic.format (m : Mnemonic) : Format :=
  match m with
  | .nop | .hlt => .n
  | .add | .sub | .and | .or | .xor | .adc | .sbc => .rrr
  | .not => .rr
  | .cmp => .crr
  | .addi | .subi | .andi | .ori | .xori | .load | .jalr => .rri
  | .cmpi | .jr => .ri
  | .store => .s
  | .li | .lui => .ri8
  | .jmp | .beq | .bne | .blt | .bgt | .bltu | .bgtu => .i11

/-- The ignored bits of a format, as a mask over the instruction word (R55). -/
def Format.ignoredMask (f : Format) : Word :=
  match f with
  | .n => 0x07FF
  | .rrr => 0x0003
  | .rr => 0x001F
  | .crr => 0x0703
  | .ri => 0x0700
  | .rri | .s | .ri8 | .i11 => 0x0000

/-- Why a word is not one an assembler writes. -/
inductive WordFlaw where
  /-- No instruction is assigned to the opcode (R60). -/
  | unassignedOpcode
  /-- A bit the format ignores is 1 (R55: "An assembler writes ignored bits as 0"). -/
  | ignoredBitSet
  deriving DecidableEq, Repr

/-- The first flaw of a word whose opcode the opcode map reads as `m?`. -/
def wordFlaw (m? : Option Mnemonic) (w : Word) : Option WordFlaw :=
  match m? with
  | none => some .unassignedOpcode
  | some m => if w &&& m.format.ignoredMask = 0 then none else some .ignoredBitSet

end Sys2Proof
end

