-- ==== Sys2Proof/Decode.lean ====
section
/-! DEFINITION. Fields, immediates and the opcode map (30_encoding.md R53 to R61), the decoder, total on every word,
and after it the encoder. The opcode map is one table (R6, R59), so a corrected map changes one list. -/
namespace Sys2Proof

/-- `op = ins[15:11]` (R53). -/
def opField (w : Word) : BitVec 5 := w.extractLsb' 11 5

/-- `selC = ins[10:8]`, the destination register (R54). -/
def selC (w : Word) : RegSel := w.extractLsb' 8 3

/-- `selA = ins[7:5]`, read port A (R54). -/
def selA (w : Word) : RegSel := w.extractLsb' 5 3

/-- `selB = ins[4:2]`, read port B (R54). -/
def selB (w : Word) : RegSel := w.extractLsb' 2 3

/-- `imm5 = ins[4:0]` (R54). -/
def imm5Field (w : Word) : BitVec 5 := w.extractLsb' 0 5

/-- `imm5s = {ins[10:8], ins[1:0]}`, STORE's split immediate (R54). -/
def imm5sField (w : Word) : BitVec 5 := w.extractLsb' 8 3 ++ w.extractLsb' 0 2

/-- `imm8 = ins[7:0]` (R54). -/
def imm8Field (w : Word) : BitVec 8 := w.extractLsb' 0 8

/-- `imm11 = ins[10:0]` (R54). -/
def imm11Field (w : Word) : BitVec 11 := w.extractLsb' 0 11

/-- The opcode map of R59. Opcodes 19 and 23 have no row: they are illegal (R60). -/
def opcodeMap : List (Mnemonic × BitVec 5) :=
  [(.nop, 0), (.hlt, 1), (.load, 2), (.store, 3), (.li, 4), (.lui, 5), (.cmp, 6), (.add, 7)] ++
  [(.sub, 8), (.and, 9), (.or, 10), (.xor, 11), (.not, 12), (.cmpi, 13), (.addi, 14), (.subi, 15)] ++
  [(.andi, 16), (.ori, 17), (.xori, 18), (.jmp, 20), (.jr, 21), (.jalr, 22)] ++
  [(.beq, 24), (.bne, 25), (.blt, 26), (.bgt, 27), (.bltu, 28), (.bgtu, 29), (.adc, 30), (.sbc, 31)]

/-- The mnemonic the map gives an opcode, if it gives one. -/
def mnemonicOf (op : BitVec 5) : Option Mnemonic :=
  (opcodeMap.find? (fun row => row.2 == op)).map Prod.fst

/-- The opcode the map gives a mnemonic. -/
def opcodeOf (m : Mnemonic) : BitVec 5 :=
  match opcodeMap.find? (fun row => row.1 == m) with
  | some row => row.2
  | none => 0

/-- Why a word is not decoded. -/
inductive DecodeError where
  /-- No instruction is assigned to the opcode `op` (R60, R116). -/
  | illegalOpcode (op : BitVec 5)
  deriving DecidableEq, Repr

/-- The operands of `m` in the word `w`, by its format (R55). -/
def operandsOf (m : Mnemonic) (w : Word) : Instr :=
  match m with
  | .nop => .nop
  | .hlt => .hlt
  | .load => .load (selC w) (selA w) (imm5Field w)
  | .store => .store (selB w) (selA w) (imm5sField w)
  | .li => .li (selC w) (imm8Field w)
  | .lui => .lui (selC w) (imm8Field w)
  | .cmp => .cmp (selA w) (selB w)
  | .add => .add (selC w) (selA w) (selB w)
  | .sub => .sub (selC w) (selA w) (selB w)
  | .and => .and (selC w) (selA w) (selB w)
  | .or => .or (selC w) (selA w) (selB w)
  | .xor => .xor (selC w) (selA w) (selB w)
  | .not => .not (selC w) (selA w)
  | .cmpi => .cmpi (selA w) (imm5Field w)
  | .addi => .addi (selC w) (selA w) (imm5Field w)
  | .subi => .subi (selC w) (selA w) (imm5Field w)
  | .andi => .andi (selC w) (selA w) (imm5Field w)
  | .ori => .ori (selC w) (selA w) (imm5Field w)
  | .xori => .xori (selC w) (selA w) (imm5Field w)
  | .jmp => .jmp (imm11Field w)
  | .jr => .jr (selA w) (imm5Field w)
  | .jalr => .jalr (selC w) (selA w) (imm5Field w)
  | .beq => .beq (imm11Field w)
  | .bne => .bne (imm11Field w)
  | .blt => .blt (imm11Field w)
  | .bgt => .bgt (imm11Field w)
  | .bltu => .bltu (imm11Field w)
  | .bgtu => .bgtu (imm11Field w)
  | .adc => .adc (selC w) (selA w) (selB w)
  | .sbc => .sbc (selC w) (selA w) (selB w)

/-- Decode one instruction word. Every instruction is one word (R53); ignored bits have no part in it
(R55, R60). -/
def decode (w : Word) : Except DecodeError Instr :=
  match mnemonicOf (opField w) with
  | some m => .ok (operandsOf m w)
  | none => .error (.illegalOpcode (opField w))

/-- Whether a word is well-formed (WellFormed.lean), read with the opcode map. -/
def wordWellFormed (w : Word) : Bool := wordFlaw (mnemonicOf (opField w)) w == none

/-- The word a row of spec/opcode_table.json gives: `w` holds the row's `nbits` bits numbered as the table
numbers them, and every bit above them is 0. Every instruction is 16 bits. -/
def decodeTableWord (nbits w : Nat) : Option Instr :=
  match decode (BitVec.ofNat 16 (w % 2 ^ nbits)) with
  | .ok i => some i
  | .error _ => none

/-- `{op, c, a, b, low}`: the fields of R54 in the formats N, RRR, RR, CRR and S. -/
def packRegs (op : BitVec 5) (c a b : RegSel) (low : BitVec 2) : Word := op ++ c ++ a ++ b ++ low

/-- `{op, c, a, imm5}`: formats RRI and RI. -/
def packImm5 (op : BitVec 5) (c a : RegSel) (imm : BitVec 5) : Word := op ++ c ++ a ++ imm

/-- `{op, c, imm8}`: format RI8. -/
def packImm8 (op : BitVec 5) (c : RegSel) (imm : BitVec 8) : Word := op ++ c ++ imm

/-- `{op, imm11}`: format I11. -/
def packImm11 (op : BitVec 5) (imm : BitVec 11) : Word := op ++ imm

/-- The word of an instruction, its ignored bits 0 (R55). -/
def encode (i : Instr) : Word :=
  match i with
  | .nop => packRegs (opcodeOf .nop) 0 0 0 0
  | .hlt => packRegs (opcodeOf .hlt) 0 0 0 0
  | .load rd ra imm => packImm5 (opcodeOf .load) rd ra imm
  | .store rb ra imm => packRegs (opcodeOf .store) (imm.extractLsb' 2 3) ra rb (imm.extractLsb' 0 2)
  | .li rd imm => packImm8 (opcodeOf .li) rd imm
  | .lui rd imm => packImm8 (opcodeOf .lui) rd imm
  | .cmp ra rb => packRegs (opcodeOf .cmp) 0 ra rb 0
  | .add rd ra rb => packRegs (opcodeOf .add) rd ra rb 0
  | .sub rd ra rb => packRegs (opcodeOf .sub) rd ra rb 0
  | .and rd ra rb => packRegs (opcodeOf .and) rd ra rb 0
  | .or rd ra rb => packRegs (opcodeOf .or) rd ra rb 0
  | .xor rd ra rb => packRegs (opcodeOf .xor) rd ra rb 0
  | .not rd ra => packRegs (opcodeOf .not) rd ra 0 0
  | .cmpi ra imm => packImm5 (opcodeOf .cmpi) 0 ra imm
  | .addi rd ra imm => packImm5 (opcodeOf .addi) rd ra imm
  | .subi rd ra imm => packImm5 (opcodeOf .subi) rd ra imm
  | .andi rd ra imm => packImm5 (opcodeOf .andi) rd ra imm
  | .ori rd ra imm => packImm5 (opcodeOf .ori) rd ra imm
  | .xori rd ra imm => packImm5 (opcodeOf .xori) rd ra imm
  | .jmp imm => packImm11 (opcodeOf .jmp) imm
  | .jr ra imm => packImm5 (opcodeOf .jr) 0 ra imm
  | .jalr rd ra imm => packImm5 (opcodeOf .jalr) rd ra imm
  | .beq imm => packImm11 (opcodeOf .beq) imm
  | .bne imm => packImm11 (opcodeOf .bne) imm
  | .blt imm => packImm11 (opcodeOf .blt) imm
  | .bgt imm => packImm11 (opcodeOf .bgt) imm
  | .bltu imm => packImm11 (opcodeOf .bltu) imm
  | .bgtu imm => packImm11 (opcodeOf .bgtu) imm
  | .adc rd ra rb => packRegs (opcodeOf .adc) rd ra rb 0
  | .sbc rd ra rb => packRegs (opcodeOf .sbc) rd ra rb 0

end Sys2Proof
end

