-- ==== Sys2Proof/Machine/Operands.lean ====
section
/-! DEFINITION. The immediates (30_encoding.md R56) and the operand selectors of EX (R57, R58). -/
namespace Sys2Proof.Machine

/-- `sext_5(v)` (R9, R56): the value of `IMM5` and of `IMM5S`. -/
def sext5 (v : BitVec 5) : Word := v.signExtend 16

/-- `sext_11(v)` (R9, R56). -/
def sext11 (v : BitVec 11) : Word := v.signExtend 16

/-- `IMM8LO`: LI's value `sext_8(v)` (R56). -/
def imm8Lo (v : BitVec 8) : Word := v.signExtend 16

/-- `IMM8HI`: LUI's value `v << 8` (R56). -/
def imm8Hi (v : BitVec 8) : Word := v ++ (0 : BitVec 8)

/-- The right ALU operand `R` (R57). `ins` is the word in EX; an undefined word gives undefined immediates. -/
def rightOperand (sel : SelRight) (b : RegVal) (ins : Option Word) : RegVal :=
  match sel with
  | .regB => b
  | .imm5 => .ofOption (ins.map fun w => sext5 (imm5Field w))
  | .imm5Split => .ofOption (ins.map fun w => sext5 (imm5sField w))
  | .imm11 => .ofOption (ins.map fun w => sext11 (imm11Field w))

/-- The store operand `SOP` (R58). -/
def storeOperand (sel : SelStore) (b : RegVal) (ins pc : Option Word) : RegVal :=
  match sel with
  | .regB => b
  | .pcLink => .ofOption (pc.map fun p => p + 1)
  | .imm8Lo => .ofOption (ins.map fun w => imm8Lo (imm8Field w))
  | .imm8Hi => .ofOption (ins.map fun w => imm8Hi (imm8Field w))

/-- Where a relative jump at `pc` continues: `pc + 2 + sext_11(imm11)` (R100). -/
def relativeTarget (pc : Word) (imm11 : BitVec 11) : Word := pc + 2 + sext11 imm11

/-- Where an absolute jump continues, and the effective address of LOAD and STORE: `x[ra] + sext_5(imm5)`
(R43, R96, R97, R101). -/
def baseOffset (base : Word) (imm5 : BitVec 5) : Word := base + sext5 imm5

end Sys2Proof.Machine
end

