-- ==== Sys2Proof/Machine/Control.lean ====
section
/-! DEFINITION. The opcode decode table and its invariants (30_encoding.md R65 to R69). -/
namespace Sys2Proof.Machine

/-- The fields that the ten register-writing and flag-setting ALU rows share: `fi`, `wbSrc = ALU`, both byte enables
and `wben` (R65, rows 7 to 12, 14 to 18, 30, 31). -/
def aluRow (op : AluOp) (cin : Bool) (right : SelRight) (usesB : Bool) : ControlWord :=
  { nopCtl with
    selRight := right, aluOp := op, cin := cin, fi := true
    wbSrc := .alu, writeLo := true, writeHi := true, wben := true, usesA := true, usesB := usesB }

/-- Rows 6 and 13: as SUB, but nothing is written (R65). -/
def compareRow (right : SelRight) (usesB : Bool) : ControlWord :=
  { nopCtl with
    selRight := right, aluOp := .sub, cin := true, fi := true, usesA := true, usesB := usesB }

/-- Rows 20 and 24 to 29: a relative jump, requested where `taken` (R65, R66). -/
def relativeRow (taken : Bool) : ControlWord :=
  { nopCtl with selRight := .imm11, aluOp := .passR, j := taken }

/-- Rows 4 and 5: a constant through the store operand and the bus (R65). -/
def constantRow (sel : SelStore) (lo : Bool) : ControlWord :=
  { nopCtl with
    selStore := sel, assertStoreOp := true, wbSrc := .bus, writeLo := lo, writeHi := true, wben := true }

/-- The row for a mnemonic, `bit` being the flag condition of a branch or the carry of ADC and SBC (R65, R66). -/
def controlRow (m : Mnemonic) (bit : Bool) : ControlWord :=
  match m with
  | .nop => nopCtl
  | .hlt => { nopCtl with hlt := true }
  | .load =>
    { nopCtl with
      selRight := .imm5, aluOp := .add, memLoad := true
      wbSrc := .bus, writeLo := true, writeHi := true, wben := true, usesA := true }
  | .store =>
    { nopCtl with
      selRight := .imm5Split, selStore := .regB, aluOp := .add, memStore := true
      assertStoreOp := true, usesA := true, usesB := true }
  | .li => constantRow .imm8Lo true
  | .lui => constantRow .imm8Hi false
  | .cmp => compareRow .regB true
  | .add => aluRow .add false .regB true
  | .sub => aluRow .sub true .regB true
  | .and => aluRow (.logic .and) false .regB true
  | .or => aluRow (.logic .or) false .regB true
  | .xor => aluRow (.logic .xor) false .regB true
  | .not => aluRow (.logic .not) false .regB false
  | .cmpi => compareRow .imm5 false
  | .addi => aluRow .add false .imm5 false
  | .subi => aluRow .sub true .imm5 false
  | .andi => aluRow (.logic .and) false .imm5 false
  | .ori => aluRow (.logic .or) false .imm5 false
  | .xori => aluRow (.logic .xor) false .imm5 false
  | .jmp => relativeRow true
  | .jr => { nopCtl with selRight := .imm5, aluOp := .add, j := true, jabs := true, usesA := true }
  | .jalr =>
    { nopCtl with
      selRight := .imm5, selStore := .pcLink, aluOp := .add, j := true, jabs := true
      assertStoreOp := true, wbSrc := .bus, writeLo := true, writeHi := true, wben := true, usesA := true }
  | .beq => relativeRow bit
  | .bne => relativeRow bit
  | .blt => relativeRow bit
  | .bgt => relativeRow bit
  | .bltu => relativeRow bit
  | .bgtu => relativeRow bit
  | .adc => aluRow .add bit .regB true
  | .sbc => aluRow .sub bit .regB true

/-- What the row of a mnemonic reads of the flags: nothing, or a bit that may be undefined (R66). The outer
`none` says that the row reads no flag. -/
def flagRead (m : Mnemonic) (f : Flags) : Option (Option Bool) :=
  match m with
  | .beq => some (condEq f)
  | .bne => some (condNe f)
  | .blt => some (condLt f)
  | .bgt => some (condGt f)
  | .bltu => some (condLtu f)
  | .bgtu => some (condGtu f)
  | .adc | .sbc => some f.c
  | .nop | .hlt | .load | .store | .li | .lui | .cmp | .add | .sub | .and | .or | .xor | .not | .cmpi
  | .addi | .subi | .andi | .ori | .xori | .jmp | .jr | .jalr => none

/-- `decode(op, F, rst)` (R65, R66, R67): `NOPCTL` while reset is asserted; otherwise the row of the opcode, with
`fault = UndefinedFlags` where a flag it reads is undefined, and `NOPCTL` with `fault = IllegalOpcode` for
opcodes 19 and 23. R66 does not say what such a row's `j` (branches) or `cin` (ADC, SBC) holds. DESIGN CHOICE, safe: both are
deasserted, and EX raises the fault before it looks at either. Log entry 26. -/
def decodeControl (op : BitVec 5) (f : Flags) (rst : Bool) : ControlWord :=
  if rst then nopCtl
  else
    match mnemonicOf op with
    | none => { nopCtl with fault := some (.illegalOpcode op) }
    | some m =>
      match flagRead m f with
      | none => controlRow m false
      | some (some bit) => controlRow m bit
      | some none => { controlRow m false with fault := some .undefinedFlags }

/-- The decode of IF/ID's word: an undefined word gives `NOPCTL` with `fault = UndefinedInstructionWord` (R68). -/
def decodeFetched (x : IfId) (f : Flags) (rst : Bool) : ControlWord :=
  match x.ins with
  | some w => decodeControl (opField w) f rst
  | none =>
    if rst then nopCtl else { nopCtl with fault := some (.undefinedInstructionWord x.pc) }

/-- The invariants of R69: (1), (2) and (4); (3) holds by the selectors' types. -/
def ControlWord.sound (c : ControlWord) : Bool :=
  !(c.memLoad && c.assertStoreOp) && !(c.memLoad && c.memStore) &&
    (c.wbSrc != .bus || c.memLoad || c.assertStoreOp)

end Sys2Proof.Machine
end

