-- ==== Sys2Proof/Machine/Ops.lean ====
section
/-! DEFINITION. The operations over memory, registers and the platform that the meanings and the pipeline stages share,
the ways an instruction ends, the halt hedge, the instruction-level fetch, and the reset cycle. The core has no
exceptions: no state is saved, there is no handler and no return (60_exceptions.md R121, R123); what the spec calls a
fault stops the model (R118). -/
namespace Sys2Proof.Machine

/-- What a meaning or a step answers. -/
abbrev Result := Host.Outcome State Fault Refusal

-- Memory ---------------------------------------------------------------------------------------------------

/-- The cell at `k`, where one is listed. -/
def Memory.readByte (m : Memory) (k : Nat) : Option Byte :=
  match m with
  | [] => none
  | (a, b) :: rest => if a = k then some b else Memory.readByte rest k

/-- List the cell `k` with byte `b`, keeping the addresses rising. -/
def Memory.writeByte (m : Memory) (k : Nat) (b : Byte) : Memory :=
  match m with
  | [] => [(k, b)]
  | (a, c) :: rest =>
    if k < a then (k, b) :: (a, c) :: rest
    else if k = a then (k, b) :: rest
    else (a, c) :: Memory.writeByte rest k b

/-- The word at the word address `a`; a byte that is not listed is undefined (R39). -/
def Memory.readWord (m : Memory) (a : Word) : RegVal :=
  ⟨Memory.readByte m (2 * a.toNat + 1), Memory.readByte m (2 * a.toNat)⟩

/-- Write the whole word at the word address `a` (R38, R42). -/
def Memory.writeWord (m : Memory) (a w : Word) : Memory :=
  Memory.writeByte (Memory.writeByte m (2 * a.toNat) (w.extractLsb' 0 8)) (2 * a.toNat + 1)
    (w.extractLsb' 8 8)

/-- The canonical form: addresses strictly rising, and inside the 65536 words (R37, R38). An unlisted cell has
no value, so no listed cell equals it. -/
abbrev Memory.wf (m : Memory) : Prop :=
  m.Pairwise (fun x y => x.1 < y.1) ∧ ∀ x ∈ m, x.1 < 131072

-- Platform ------------------------------------------------------------------------------------------------

/-- Whether a window holds the address. -/
def Window.holds (w : Window) (e : Word) : Bool := decide (w.first ≤ e ∧ e ≤ w.last)

/-- Whether `e` is in IO_MAP (R45). -/
def Platform.isDevice (p : Platform) (e : Word) : Bool := p.ioMap.any (·.holds e)

/-- `IMEM_ALIAS(e)` (R46). -/
def Platform.aliasOf (p : Platform) (e : Word) : Option Word :=
  (p.imemAlias.find? fun w => decide (w.first ≤ e ∧ e ≤ w.last)).map
    fun w => w.target + (e - w.first)

-- Registers -----------------------------------------------------------------------------------------------

/-- Register `i` of a register file (R17). No register is hardwired. -/
def regOf (regs : Vector RegVal 8) (i : RegSel) : RegVal := regs[i.toNat]'i.isLt

/-- The register file with `v` in register `i`. -/
def setRegOf (regs : Vector RegVal 8) (i : RegSel) (v : RegVal) : Vector RegVal 8 :=
  regs.set i.toNat v i.isLt

/-- Register `i`. -/
def State.reg (s : State) (i : RegSel) : RegVal := regOf s.regs i

/-- Write register `i`. -/
def State.setReg (s : State) (i : RegSel) (v : RegVal) : State :=
  { s with regs := setRegOf s.regs i v }

/-- A byte-gated write: each byte is taken from `v` where its enable is asserted (R19, R132). -/
def gateBytes (old v : RegVal) (writeLo writeHi : Bool) : RegVal :=
  ⟨if writeHi then v.hi else old.hi, if writeLo then v.lo else old.lo⟩

/-- Write all four flags (R22, R74). -/
def State.setFlags (s : State) (f : Flags) : State := { s with flags := f }

-- Faults --------------------------------------------------------------------------------------------------

/-- Address and word of the instruction that the instruction level is executing (R117). -/
def State.site (s : State) : FaultSite := ⟨some s.pc, some s.ir⟩

/-- `x[i]` in an instruction-level rule: its word, or the fault `UndefinedRegister(i)` (R10, R21). -/
def State.useReg (s : State) (i : RegSel) (k : Word → Result) : Result :=
  match (s.reg i).word? with
  | some w => k w
  | none => .fault (.undefinedRegister i s.site)

/-- `F.f` in an instruction-level rule: what was read of the flags, or the fault `UndefinedFlags` (R10, R66). -/
def State.useFlag (s : State) (f : Option Bool) (k : Bool → Result) : Result :=
  match f with
  | some b => k b
  | none => .fault (.undefinedFlags s.site)

-- Data memory ---------------------------------------------------------------------------------------------

/-- `MemRead(e, 1)`: a device draw at an address of IO_MAP, the data word elsewhere; a load never reads
instruction memory (R96, R133). -/
def State.loadValue (s : State) (e : Word) : RegVal :=
  if s.platform.isDevice e then .ofWord (Config.deviceDraw s.draws e) else Memory.readWord s.dmem e

/-- The state after a load at `e`: a device draw is used up, plain memory is unchanged (R42). -/
def State.afterLoad (s : State) (e : Word) : State :=
  if s.platform.isDevice e then { s with draws := s.draws + 1 } else s

/-- `MemWrite(e, 1, v)`: to instruction memory where IMEM_ALIAS is defined (and to data memory too, where the platform
says so), as an output event at a device address, to data memory otherwise (R45, R46, R133). Log entry 12. -/
def State.storeWord (s : State) (e v : Word) : State :=
  match s.platform.aliasOf e with
  | some a =>
    { s with
      imem := Memory.writeWord s.imem a v
      dmem := if s.platform.aliasWritesData then Memory.writeWord s.dmem e v else s.dmem }
  | none =>
    if s.platform.isDevice e then { s with events := s.events ++ [(e, v)] }
    else { s with dmem := Memory.writeWord s.dmem e v }

/-- Instruction level: remember the word a store through IMEM_ALIAS is about to replace, which the next two
instructions may still run (R51, R143). Log entry 5. -/
def State.noteStale (s : State) (e : Word) : State :=
  match s.platform.aliasOf e with
  | some a => { s with stale := s.stale ++ [⟨a, (Memory.readWord s.imem a).word?, 2⟩] }
  | none => s

-- How an instruction ends ---------------------------------------------------------------------------------

/-- Retire and continue at `pc + 1` (R12, R132); `w` is the register written, with its value before. -/
def State.retire (s : State) (w : Option (RegSel × RegVal)) : State :=
  { s with prior := some ⟨w⟩, retired := s.retired + 1, pc := s.pc + 1 }

/-- Write `v` to `rd`, retire and continue at `pc + 1`. -/
def State.commit (s : State) (rd : RegSel) (v : RegVal) : State :=
  (s.setReg rd v).retire (some (rd, s.reg rd))

/-- Retire a taken jump and continue at `t` (R12). Two bubbles follow it in the pipeline, so a HLT at the target
loses nothing of it, and every word fetched after it is new (R102, R139, R143). Log entries 23 and 24. -/
def State.jumpTo (s : State) (t : Word) : State :=
  { s with prior := none, stale := [], retired := s.retired + 1, pc := t }

/-- A NOP: it has no effect, does not count as retired (R132), and continues at `pc + 1`. -/
def State.skip (s : State) : State := { s with prior := none, pc := s.pc + 1 }

/-- A conditional branch: `UndefinedFlags` where a flag it reads is undefined, a relative jump where the condition
holds, `pc + 1` otherwise (R66, R100, R103). -/
def State.branch (s : State) (cond : Option Bool) (imm11 : BitVec 11) : Result :=
  s.useFlag cond fun taken =>
    if taken then .next (s.jumpTo (relativeTarget s.pc imm11)) else .next (s.retire none)

/-- The halt hedge (R115): where an instruction retired just before the HLT, its write-back may be lost (register back to
its value before, retirement not counted) or not; which, is a free choice. Log entry 5. -/
def State.haltHedge (s : State) : State :=
  match s.prior with
  | none => s
  | some p =>
    let s' := { s with choices := s.choices + 1 }
    if Config.freeChoice s.choices % 2 = 0 then s'
    else
      match p.write with
      | none => { s' with retired := s.retired - 1 }
      | some (rd, old) => { s'.setReg rd old with retired := s.retired - 1 }

/-- Halt (R30, R115). The halted instruction level stands at `pc + 1` (R12, log entry 17). -/
def State.halt (s : State) : State :=
  { s.haltHedge with halted := true, prior := none, pc := s.pc + 1 }

-- The instruction-level fetch -----------------------------------------------------------------------------

/-- The words that may be executed at `pc`: the one in instruction memory first, then every word that it replaced
at most two instructions ago (R143, 93 "any value among the old and new word"). -/
def State.fetchCandidates (s : State) : List (Option Word) :=
  (Memory.readWord s.imem s.pc).word? :: (s.stale.filter fun x => x.addr == s.pc).map StaleWord.old

/-- The word fetched: the one candidate, or a free choice among several. -/
def State.fetchWord (s : State) : Option Word :=
  match s.fetchCandidates with
  | [w] => w
  | ws => (ws[Config.freeChoice s.choices % ws.length]?).getD none

/-- One instruction passes: a rewritten word is visible after two (R143). -/
def StaleWord.tick (x : StaleWord) : StaleWord := { x with left := x.left - 1 }

/-- The state in which the fetched word `w` executes. -/
def State.beginInstr (s : State) (w : Word) : State :=
  { s with
    ir := w
    stale := (s.stale.map StaleWord.tick).filter fun x => x.left != 0
    choices := if s.fetchCandidates.length = 1 then s.choices else s.choices + 1 }

/-- The fault of an undefined instruction word that is executed (R39, R68). -/
def State.undefinedWordFault (s : State) : Fault := .undefinedInstructionWord s.pc ⟨some s.pc, none⟩

/-- The fault of a word that does not decode (R116). -/
def State.decodeFault (s : State) (w : Word) (e : DecodeError) : Fault :=
  match e with
  | .illegalOpcode op => .illegalOpcode op ⟨some s.pc, some w⟩

/-- No instruction is in flight: every pipeline register is as reset leaves it, but for addresses, tags and the data
fields of a bubble, which nothing reads. -/
def State.pipelineIdle (s : State) : Bool :=
  decide (s.ifid.ins = some 0 ∧ s.idex.ctl = nopCtl ∧ s.exmem.ctl = nopCtl ∧ s.memwb.ctl = nopCtl)

-- Reset, and what keeps a step from running ---------------------------------------------------------------

/-- A cycle with `rst` asserted (R129): every field takes its value of R35; the memories, and what the host and the
platform hold (input lines, parameters, event history, draws, the level), stay. Log entry 16. -/
def State.resetCycle (s : State) : State :=
  { State.resetTable Config.resetRegister Config.resetFlag s.imem s.dmem with
    rst := s.rst
    ready := s.ready
    platform := s.platform
    events := s.events
    draws := s.draws
    stepping := s.stepping
    choices := s.choices }

/-- What a step answers when it runs nothing: a reset cycle (R129), the stop after a fault (R118), the stop after HLT
(R30), or the refusal of a cycle with `ready` inactive (R31). `none`: the step runs (R131). -/
def State.gate (s : State) : Option Result :=
  if s.rst then some (.next s.resetCycle)
  else
    match s.faulted with
    | some f => some (.fault f)
    | none =>
      if s.halted then some (.fault .halted)
      else if s.ready then some (.refused .memNotReady)
      else none

/-- Enter the `Faulted` stop (R118). -/
def State.stopWith (s : State) (f : Fault) : State := { s with faulted := some f }

end Sys2Proof.Machine
end

