-- ==== Sys2Proof/Machine/Cycle.lean ====
section
/-! DEFINITION. One clock cycle: the five stages in the order WB, MEM, EX, ID, IF, the hazard control unit, and the
latching at the end (70_reset_and_hazards.md R131 to R141). -/
namespace Sys2Proof.Machine

-- WB ------------------------------------------------------------------------------------------------------

/-- The value WB writes back: `y` or the data bus (R132). MEM's forward value is the same function of what MEM latches
(R133). -/
def writeBackValue (c : ControlWord) (y : Option Word) (d : RegVal) : RegVal :=
  match c.wbSrc with
  | .alu => .ofOption y
  | .bus => d

/-- The write of one control word to the register file, through port C (R19, R132). -/
def portC (regs : Vector RegVal 8) (c : ControlWord) (selC : Option RegSel) (v : RegVal) :
    Vector RegVal 8 :=
  match c.wben, selC with
  | true, some rd => setRegOf regs rd (gateBytes (regOf regs rd) v c.writeLo c.writeHi)
  | _, _ => regs

/-- WB (R132): the register write, and the retirement count, which NOPs, bubbles and HLT do not change. -/
def wbStage (s : State) : State :=
  { s with
    regs := portC s.regs s.memwb.ctl s.memwb.selC (writeBackValue s.memwb.ctl s.memwb.y s.memwb.d)
    retired := if s.memwb.ctl = nopCtl then s.retired else s.retired + 1 }

-- MEM -----------------------------------------------------------------------------------------------------

/-- The check of R133 and R69 on the control word that MEM executes. -/
def memCheck (c : ControlWord) : Option InternalCause :=
  if c.memLoad && c.assertStoreOp then some .loadAndAssertStoreOp
  else if c.memLoad && c.memStore then some .loadAndStore
  else if c.sound then none
  else some .busNotDriven

/-- What MEM gives: the state after its access, what it latches, and its forward value. -/
structure MemOut where
  after : State
  memwb : MemWb
  fwd : RegVal
  deriving DecidableEq, Repr

/-- MEM's latch and forward value for a bus value `d`. -/
def memLatch (x : ExMem) (after : State) (d : RegVal) : MemOut where
  after := after
  memwb := ⟨x.ctl, x.y, d, x.selC, x.pc, x.tag⟩
  fwd := writeBackValue x.ctl x.y d

/-- MEM (R133), `ready` active: at most one access. The bus carries the loaded word, or the store operand where it is
asserted, or nothing. -/
def memStage (s : State) : Except InternalCause MemOut :=
  let x := s.exmem
  match memCheck x.ctl with
  | some cause => .error cause
  | none =>
    if x.ctl.memLoad then
      match x.y with
      | some e => .ok (memLatch x (s.afterLoad e) (s.loadValue e))
      | none => .error .undefinedAccess
    else
      let d := if x.ctl.assertStoreOp then x.sop else .undef
      if x.ctl.memStore then
        match x.y, x.sop.word? with
        | some e, some v => .ok (memLatch x (s.storeWord e v) d)
        | _, _ => .error .undefinedAccess
      else .ok (memLatch x s d)

-- EX ------------------------------------------------------------------------------------------------------

/-- Where the instruction in EX is (R117). -/
def exSite (x : IdEx) : FaultSite := ⟨x.pc, x.ins⟩

/-- The fault in the control word, with its site (R117). -/
def CtlFault.raise (f : CtlFault) (site : FaultSite) : Fault :=
  match f with
  | .illegalOpcode op => .illegalOpcode op site
  | .undefinedInstructionWord addr => .undefinedInstructionWord addr site
  | .undefinedFlags => .undefinedFlags site

/-- The selector of a port in the word in EX, an undefined word reading as 0 (R117, R135). -/
def exSelector (x : IdEx) (sel : Word → RegSel) : RegSel := sel (x.ins.getD 0)

/-- EX's fault check, in the order of R119: the control word's fault, then port A, then port B. -/
def exFault (x : IdEx) : Option Fault :=
  match x.ctl.fault with
  | some f => some (f.raise (exSite x))
  | none =>
    if x.ctl.usesA && x.a.word?.isNone then
      some (.undefinedRegister (exSelector x selA) (exSite x))
    else if x.ctl.usesB && x.b.word?.isNone then
      some (.undefinedRegister (exSelector x selB) (exSite x))
    else none

/-- What EX gives: what it latches, the raw flags, its forward value, and the target of a jump it requests, by IF's PC
(R134, R136). -/
structure ExOut where
  exmem : ExMem
  flags : Flags
  fwd : RegVal
  jump : Option Word
  deriving DecidableEq, Repr

/-- The PC that a requested jump loads: `y` where absolute, `PC + y` where relative (R136). -/
def jumpTarget (c : ControlWord) (pc y : Word) : Word := if c.jabs then y else pc + y

/-- EX (R134). -/
def exStage (pc : Word) (x : IdEx) : Except Fault ExOut :=
  match exFault x with
  | some f => .error f
  | none =>
    let raw := alu x.ctl.aluOp x.a (rightOperand x.ctl.selRight x.b x.ins) x.ctl.cin
    let sop := storeOperand x.ctl.selStore x.b x.ins x.pc
    let out : ExOut :=
      { exmem := ⟨x.ctl, raw.y, sop, x.selC, x.pc, x.tag⟩
        flags := raw.flags
        fwd := .ofOption raw.y
        jump := none }
    if x.ctl.j then
      match raw.y with
      | some y => .ok { out with jump := some (jumpTarget x.ctl pc y) }
      | none => .error (.internalError .undefinedTarget (exSite x))
    else .ok out

-- The hazard control unit, and ID -------------------------------------------------------------------------

/-- The four resolutions of an operand (R137). -/
inductive Resolution where
  | fromRegister
  | exFwd
  | memFwd
  | stall
  deriving DecidableEq, Repr

/-- Whether a control word with destination `selC` is a producer of register `r` (R15, R137). -/
def produces (c : ControlWord) (selC : Option RegSel) (r : RegSel) : Bool := c.wben && selC == some r

/-- The hazard unit's resolution of operand selector `r`: the youngest producer decides (R137). -/
def resolve (idex : IdEx) (exmem : ExMem) (r : RegSel) : Resolution :=
  if produces idex.ctl idex.selC r then
    if idex.ctl.wbSrc == .alu && idex.ctl.writeLo && idex.ctl.writeHi then .exFwd else .stall
  else if produces exmem.ctl exmem.selC r then
    if exmem.ctl.writeLo && exmem.ctl.writeHi then .memFwd else .stall
  else .fromRegister

/-- The flags hazard: a word with both top bits set in ID while EX sets the flags (R138). -/
def flagsHazard (w : Word) (idex : IdEx) : Bool := w.extractLsb' 14 2 == 3 && idex.ctl.fi

/-- The operand value for a resolution (R135). -/
def operandValue (regs : Vector RegVal 8) (exFwd memFwd : RegVal) (r : RegSel) (h : Resolution) : RegVal :=
  match h with
  | .exFwd => exFwd
  | .memFwd => memFwd
  | .fromRegister => regOf regs r
  | .stall => .undef

/-- The word in ID, an undefined one reading as 0 for the two read selectors (R135), and for the flags hazard (log entry 27). -/
def idWord (x : IfId) : Word := x.ins.getD 0

/-- ID's stall signal (R135). R135 reads an undefined word as 0x0000 for `selA` and `selB` alone, and R138 does not say whether
the flags hazard can hold for one. DESIGN CHOICE, unsafe: the word reads as 0x0000 there too, so the hazard does not hold.
Log entry 27. -/
def stallSignal (s : State) : Bool :=
  resolve s.idex s.exmem (selA (idWord s.ifid)) == .stall ||
    resolve s.idex s.exmem (selB (idWord s.ifid)) == .stall ||
    flagsHazard (idWord s.ifid) s.idex

/-- ID (R135): what ID/EX takes. `regs` is the register file after WB; flags, IF/ID, ID/EX and EX/MEM are those at
the start of the cycle. R135 does not say what `selC` holds for an undefined word: it is `none`, as every field that the rules
leave undefined (DESIGN CHOICE, safe; log entry 14). -/
def idStage (s : State) (regs : Vector RegVal 8) (exFwd memFwd : RegVal) (jump : Bool) : IdEx :=
  if jump || stallSignal s then .bubble
  else
    let w := idWord s.ifid
    { ctl := decodeFetched s.ifid s.flags s.rst
      a := operandValue regs exFwd memFwd (selA w) (resolve s.idex s.exmem (selA w))
      b := operandValue regs exFwd memFwd (selB w) (resolve s.idex s.exmem (selB w))
      ins := s.ifid.ins
      pc := some s.ifid.pc
      selC := s.ifid.ins.map selC
      tag := s.ifid.tag }

-- IF ------------------------------------------------------------------------------------------------------

/-- IF (R136): a jump loads PC and puts a bubble in IF/ID, else a stall holds both, else the word at PC is fetched
from `imem`, instruction memory after MEM. The tag of what is fetched is absent (log entry 19). -/
def ifStage (s : State) (imem : Memory) (jump : Option Word) : Word × IfId :=
  match jump with
  | some t => (t, ⟨some 0, t, none⟩)
  | none =>
    if stallSignal s then (s.pc, s.ifid)
    else (s.pc + 1, ⟨(Memory.readWord imem s.pc).word?, s.pc, none⟩)

-- The cycle -----------------------------------------------------------------------------------------------

/-- Step (6) of R131 where no fault was raised: every pipeline register, PC and the flags latch. `s` is the state at
the start of the cycle, `m` MEM's output and `x` EX's. -/
def latch (s : State) (m : MemOut) (x : ExOut) : State :=
  let front := ifStage s m.after.imem x.jump
  { m.after with
    pc := front.1
    ifid := front.2
    idex := idStage s m.after.regs x.fwd m.fwd x.jump.isSome
    exmem := x.exmem
    memwb := m.memwb
    flags := if s.idex.ctl.fi then x.flags else s.flags
    halted := s.idex.ctl.hlt
    cycles := s.cycles + 1
    prior := none
    stale := [] }

/-- One clock cycle (R131). A fault stops the model with WB and MEM done and nothing latched (R118); MEM's own
error comes first (R119). -/
def cycle (s : State) : State :=
  let w := wbStage s
  match memStage w with
  | .error cause => w.stopWith (.internalError cause ⟨s.exmem.pc, none⟩)
  | .ok m =>
    match exStage s.pc s.idex with
    | .error f => m.after.stopWith f
    | .ok x => latch s m x

end Sys2Proof.Machine
end

