-- ==== Sys2Proof/Machine/AluRegister.lean ====
section
/-! DEFINITION. Register-register ALU instructions (40_alu_register.md R79 to R87) and the shared shapes of the ALU
instructions. A meaning answers the state after the instruction retires in program order (00_scope.md R5 (b)). -/
namespace Sys2Proof.Machine

/-- Write an ALU result to `rd`, its flags to the flags register, and continue (R74). -/
def State.commitAlu (s : State) (rd : RegSel) (o : AluOut) : State :=
  (s.setFlags o.flags).commit rd (.ofWord o.y)

/-- Write the flags of an ALU output only, and continue (R87). -/
def State.commitFlags (s : State) (o : AluOut) : State := (s.setFlags o.flags).retire none

/-- Two register operands, port A checked before port B (R119), sources read before the result is written (R77). -/
def State.useRegs (s : State) (ra rb : RegSel) (k : Word → Word → Result) : Result :=
  s.useReg ra fun a => s.useReg rb fun b => k a b

/-- ADD (R79). -/
def execAdd (rd ra rb : RegSel) (s : State) : Result :=
  s.useRegs ra rb fun a b => .next (s.commitAlu rd (aluAdd a b false))

/-- SUB (R80). -/
def execSub (rd ra rb : RegSel) (s : State) : Result :=
  s.useRegs ra rb fun a b => .next (s.commitAlu rd (aluSub a b true))

/-- AND (R81). -/
def execAnd (rd ra rb : RegSel) (s : State) : Result :=
  s.useRegs ra rb fun a b => .next (s.commitAlu rd (logicOut .and a (.ofWord b) (a &&& b)))

/-- OR (R82). -/
def execOr (rd ra rb : RegSel) (s : State) : Result :=
  s.useRegs ra rb fun a b => .next (s.commitAlu rd (logicOut .or a (.ofWord b) (a ||| b)))

/-- XOR (R83); it uses both operands even where they name one register. -/
def execXor (rd ra rb : RegSel) (s : State) : Result :=
  s.useRegs ra rb fun a b => .next (s.commitAlu rd (logicOut .xor a (.ofWord b) (a ^^^ b)))

/-- NOT (R84). LOGIC_CV also takes the port-B value, that of the register the word's bits 4:2 select, which NOT does
not otherwise use and never checks. Log entry 3. -/
def execNot (rd ra : RegSel) (s : State) : Result :=
  s.useReg ra fun a => .next (s.commitAlu rd (logicOut .not a (s.reg (selB s.ir)) (~~~a)))

/-- ADC (R85); the flags are checked first (R119). -/
def execAdc (rd ra rb : RegSel) (s : State) : Result :=
  s.useFlag s.flags.c fun c =>
    s.useRegs ra rb fun a b => .next (s.commitAlu rd (aluAdd a b c))

/-- SBC (R86); the flags are checked first (R119). -/
def execSbc (rd ra rb : RegSel) (s : State) : Result :=
  s.useFlag s.flags.c fun c =>
    s.useRegs ra rb fun a b => .next (s.commitAlu rd (aluSub a b c))

/-- CMP (R87). -/
def execCmp (ra rb : RegSel) (s : State) : Result :=
  s.useRegs ra rb fun a b => .next (s.commitFlags (aluSub a b true))

end Sys2Proof.Machine
end

