-- ==== Sys2Proof/Machine/AluImmediate.lean ====
section
/-! DEFINITION. Immediate ALU instructions and constants (41_alu_immediate.md R88 to R95). -/
namespace Sys2Proof.Machine

/-- ADDI (R88). -/
def execAddi (rd ra : RegSel) (imm : BitVec 5) (s : State) : Result :=
  s.useReg ra fun a => .next (s.commitAlu rd (aluAdd a (sext5 imm) false))

/-- SUBI (R89). -/
def execSubi (rd ra : RegSel) (imm : BitVec 5) (s : State) : Result :=
  s.useReg ra fun a => .next (s.commitAlu rd (aluSub a (sext5 imm) true))

/-- ANDI (R90). -/
def execAndi (rd ra : RegSel) (imm : BitVec 5) (s : State) : Result :=
  s.useReg ra fun a =>
    .next (s.commitAlu rd (logicOut .and a (.ofWord (sext5 imm)) (a &&& sext5 imm)))

/-- ORI (R91). -/
def execOri (rd ra : RegSel) (imm : BitVec 5) (s : State) : Result :=
  s.useReg ra fun a =>
    .next (s.commitAlu rd (logicOut .or a (.ofWord (sext5 imm)) (a ||| sext5 imm)))

/-- XORI (R92). -/
def execXori (rd ra : RegSel) (imm : BitVec 5) (s : State) : Result :=
  s.useReg ra fun a =>
    .next (s.commitAlu rd (logicOut .xor a (.ofWord (sext5 imm)) (a ^^^ sext5 imm)))

/-- CMPI (R93). -/
def execCmpi (ra : RegSel) (imm : BitVec 5) (s : State) : Result :=
  s.useReg ra fun a => .next (s.commitFlags (aluSub a (sext5 imm) true))

/-- LI (R94): both bytes are written; no register is read and no flag changes. -/
def execLi (rd : RegSel) (imm : BitVec 8) (s : State) : Result :=
  .next (s.commit rd (.ofWord (imm8Lo imm)))

/-- LUI (R95): the high byte only; the low byte stays as it is, undefined if it was. -/
def execLui (rd : RegSel) (imm : BitVec 8) (s : State) : Result :=
  .next (s.commit rd (gateBytes (s.reg rd) (.ofWord (imm8Hi imm)) false true))

end Sys2Proof.Machine
end

