-- ==== Sys2Proof/Machine/ControlTransfer.lean ====
section
/-! DEFINITION. Jumps and conditional branches (43_control_transfer.md R100 to R113). None has a delay slot (R102) and none
writes a flag. -/
namespace Sys2Proof.Machine

/-- JMP (R105). -/
def execJmp (imm : BitVec 11) (s : State) : Result := .next (s.jumpTo (relativeTarget s.pc imm))

/-- JR (R106). -/
def execJr (ra : RegSel) (imm : BitVec 5) (s : State) : Result :=
  s.useReg ra fun a => .next (s.jumpTo (baseOffset a imm))

/-- JALR (R107): the target comes from the old `x[ra]`, so `rd` may equal `ra`. -/
def execJalr (rd ra : RegSel) (imm : BitVec 5) (s : State) : Result :=
  s.useReg ra fun a => .next ((s.setReg rd (.ofWord (s.pc + 1))).jumpTo (baseOffset a imm))

/-- BEQ (R108). -/
def execBeq (imm : BitVec 11) (s : State) : Result := s.branch (condEq s.flags) imm

/-- BNE (R109). -/
def execBne (imm : BitVec 11) (s : State) : Result := s.branch (condNe s.flags) imm

/-- BLT (R110). -/
def execBlt (imm : BitVec 11) (s : State) : Result := s.branch (condLt s.flags) imm

/-- BGT (R111). -/
def execBgt (imm : BitVec 11) (s : State) : Result := s.branch (condGt s.flags) imm

/-- BLTU (R112). -/
def execBltu (imm : BitVec 11) (s : State) : Result := s.branch (condLtu s.flags) imm

/-- BGTU (R113). -/
def execBgtu (imm : BitVec 11) (s : State) : Result := s.branch (condGtu s.flags) imm

end Sys2Proof.Machine
end

