-- ==== Sys2Proof/Machine/LoadStore.lean ====
section
/-! DEFINITION. LOAD and STORE (42_load_store.md R96, R97). Neither writes a flag. -/
namespace Sys2Proof.Machine

/-- LOAD (R96): an undefined data word makes both bytes of `rd` undefined without a fault (R39). -/
def execLoad (rd ra : RegSel) (imm : BitVec 5) (s : State) : Result :=
  s.useReg ra fun base =>
    .next ((s.afterLoad (baseOffset base imm)).commit rd (s.loadValue (baseOffset base imm)))

/-- STORE (R97): port A (the base) is checked before port B (the data) (R119). -/
def execStore (rb ra : RegSel) (imm : BitVec 5) (s : State) : Result :=
  s.useReg ra fun base => s.useReg rb fun v =>
    .next (((s.noteStale (baseOffset base imm)).storeWord (baseOffset base imm) v).retire none)

end Sys2Proof.Machine
end

