-- ==== Sys2Proof/Machine/System.lean ====
section
/-! DEFINITION. NOP and HLT (44_system.md R114, R115). -/
namespace Sys2Proof.Machine

/-- NOP (R114). -/
def execNop (s : State) : Result := .next s.skip

/-- HLT (R115): halts, with the halt hedge on the instruction just before. -/
def execHlt (s : State) : Result := .next s.halt

end Sys2Proof.Machine
end

