-- ==== Sys2Proof/Machine/Dispatch.lean ====
section
/-! DEFINITION. One arm per instruction, each a call of its meaning. -/
namespace Sys2Proof.Machine

def exec (i : Instr) (s : State) : Host.Outcome State Fault Refusal :=
  match i with
  | .nop => Sys2Proof.Machine.execNop s
  | .hlt => Sys2Proof.Machine.execHlt s
  | .load rd ra imm => Sys2Proof.Machine.execLoad rd ra imm s
  | .store rb ra imm => Sys2Proof.Machine.execStore rb ra imm s
  | .li rd imm => Sys2Proof.Machine.execLi rd imm s
  | .lui rd imm => Sys2Proof.Machine.execLui rd imm s
  | .cmp ra rb => Sys2Proof.Machine.execCmp ra rb s
  | .add rd ra rb => Sys2Proof.Machine.execAdd rd ra rb s
  | .sub rd ra rb => Sys2Proof.Machine.execSub rd ra rb s
  | .and rd ra rb => Sys2Proof.Machine.execAnd rd ra rb s
  | .or rd ra rb => Sys2Proof.Machine.execOr rd ra rb s
  | .xor rd ra rb => Sys2Proof.Machine.execXor rd ra rb s
  | .not rd ra => Sys2Proof.Machine.execNot rd ra s
  | .cmpi ra imm => Sys2Proof.Machine.execCmpi ra imm s
  | .addi rd ra imm => Sys2Proof.Machine.execAddi rd ra imm s
  | .subi rd ra imm => Sys2Proof.Machine.execSubi rd ra imm s
  | .andi rd ra imm => Sys2Proof.Machine.execAndi rd ra imm s
  | .ori rd ra imm => Sys2Proof.Machine.execOri rd ra imm s
  | .xori rd ra imm => Sys2Proof.Machine.execXori rd ra imm s
  | .jmp imm => Sys2Proof.Machine.execJmp imm s
  | .jr ra imm => Sys2Proof.Machine.execJr ra imm s
  | .jalr rd ra imm => Sys2Proof.Machine.execJalr rd ra imm s
  | .beq imm => Sys2Proof.Machine.execBeq imm s
  | .bne imm => Sys2Proof.Machine.execBne imm s
  | .blt imm => Sys2Proof.Machine.execBlt imm s
  | .bgt imm => Sys2Proof.Machine.execBgt imm s
  | .bltu imm => Sys2Proof.Machine.execBltu imm s
  | .bgtu imm => Sys2Proof.Machine.execBgtu imm s
  | .adc rd ra rb => Sys2Proof.Machine.execAdc rd ra rb s
  | .sbc rd ra rb => Sys2Proof.Machine.execSbc rd ra rb s

end Sys2Proof.Machine
end

