-- ==== Sys2Proof/Machine/Step.lean ====
section
/-! DEFINITION. One step of the machine, at the level the host has chosen (00_scope.md R5), and the state in which a
given instruction is the next to run. -/
namespace Sys2Proof.Machine

/-- One instruction in program order (R5 (b), R12): fetch the word at PC, decode it, execute it. -/
def stepInstruction (s : State) : Host.Outcome State Fault Refusal :=
  if s.pipelineIdle then
    match s.fetchWord with
    | none => .fault s.undefinedWordFault
    | some w =>
      match decode w with
      | .error e => .fault (s.decodeFault w e)
      | .ok i => exec i (s.beginInstr w)
  else .refused .pipelineBusy

/-- One step: a reset cycle, a stop or a refusal where the gate says so (R129, R118, R30, R31); otherwise one
instruction or one clock cycle. -/
def step (s : State) : Host.Outcome State Fault Refusal :=
  match s.gate with
  | some r => r
  | none =>
    match s.stepping with
    | .instruction => stepInstruction s
    | .cycle => .next (cycle s)

/-- `s` with the given instruction word stored at PC (the host's bulk store, R37), about to be stepped at the
instruction level: reset released, no stop, `ready` active, nothing in flight and no older word to choose. -/
def State.withFetchWord (s : State) (nbits w : Nat) : State :=
  { s with
    imem := Memory.writeWord s.imem s.pc (BitVec.ofNat 16 (w % 2 ^ nbits))
    rst := false
    ready := false
    halted := false
    faulted := none
    stepping := .instruction
    stale := []
    ifid := .bubble
    idex := .bubble
    exmem := .bubble
    memwb := .bubble }

end Sys2Proof.Machine
end

