-- ==== Sys2Proof/Machine/HostPort.lean ====
section
/-! DEFINITION. What the host does to the core, between cycles (R52): bulk store, data seeding, reset, the accessors and
the stepping level (10_state.md R33, 20_memory.md R37 and R39, 60 R127, 70 R129 and R130). -/
namespace Sys2Proof.Machine

/-- `store(words, at_address)`: `words[k]` goes to `at_address + k` modulo 2^16 (R37). The spec fixes a store made mid-run by
cycles and instructions in flight (R51, R52), which the instruction level does not have. DESIGN CHOICE, unsafe: there the very
next instruction runs the new word, and the words in `stale` stay candidates. Log entry 28. -/
def State.bulkStore (s : State) (words : List Word) (at_ : Word) : State :=
  match words with
  | [] => s
  | w :: rest => State.bulkStore { s with imem := Memory.writeWord s.imem at_ w } rest (at_ + 1)

/-- Give a data word its launch contents (R39, R130). -/
def State.seedData (s : State) (a v : Word) : State := { s with dmem := Memory.writeWord s.dmem a v }

/-- Drive the reset input (R129). -/
def State.setReset (s : State) (level : Bool) : State := { s with rst := level }

/-- Drive MEM's `ready` input (R31). -/
def State.setReady (s : State) (level : Bool) : State := { s with ready := level }

/-- Choose the level of a step (R5). -/
def State.setStepping (s : State) (l : Stepping) : State := { s with stepping := l }

/-- `n` cycles with `rst` asserted (R129). -/
def State.resetCycles (s : State) (n : Nat) : State :=
  match n with
  | 0 => s
  | k + 1 => State.resetCycles s.resetCycle k

/-- Hold `rst` for `n` cycles and release it (R129, R130). -/
def State.pulseReset (s : State) (n : Nat) : State :=
  ((s.setReset true).resetCycles n).setReset false

/-- The register accessor (R33). R33 does not say what it returns for a register with exactly one defined byte. DESIGN CHOICE,
safe: as for a wholly undefined register it returns no value, and the defined byte is not shown. Log entry 25. -/
def State.hostRegister (s : State) (i : RegSel) : Option Word := (s.reg i).word?

/-- The program counter accessor: the IF PC (R33). -/
def State.hostPc (s : State) : Word := s.pc

/-- The address of the instruction about to retire, `MEMWB.pc` (R33). -/
def State.hostRetiringPc (s : State) : Option Word := s.memwb.pc

/-- The flags accessor (R33). -/
def State.hostFlags (s : State) : Flags := s.flags

end Sys2Proof.Machine
end

