-- ==== Sys2Proof/Safety.lean ====
section
/-! DEFINITION. The terms that the claims use: when an answer completes, what an instruction leaves unchanged, and the
invariants of the machine. -/
namespace Sys2Proof.Machine

/-- The answer is a next state, and it satisfies `p`. -/
def Completes (r : Result) (p : State → Prop) : Prop := ∃ t, r = .next t ∧ p t

/-- Every register but `but` holds what it held. -/
def SameRegisters (but : Option RegSel) (s t : State) : Prop :=
  ∀ i, but ≠ some i → t.reg i = s.reg i

/-- Every byte of both memories reads as it did. -/
def SameMemory (s t : State) : Prop :=
  ∀ k, Memory.readByte t.imem k = Memory.readByte s.imem k ∧
    Memory.readByte t.dmem k = Memory.readByte s.dmem k

/-- The pipeline registers, the stops, the input lines, the cycle count and what the host and the platform hold are as
they were: everything but registers, flags, PC, memories, event history, draws, the retirement count and the instruction
level's own records. -/
def SameHidden (s t : State) : Prop :=
  t.ifid = s.ifid ∧ t.idex = s.idex ∧ t.exmem = s.exmem ∧ t.memwb = s.memwb ∧ t.halted = s.halted ∧
    t.faulted = s.faulted ∧ t.rst = s.rst ∧ t.ready = s.ready ∧ t.cycles = s.cycles ∧
    t.platform = s.platform ∧ t.stepping = s.stepping ∧ t.ir = s.ir

/-- No output event and no device draw was made, and no free choice. -/
def SameOutside (s t : State) : Prop :=
  t.events = s.events ∧ t.draws = s.draws ∧ t.choices = s.choices

/-- The frame of an instruction that touches no memory and no device: it may change the register `but`, the flags, PC,
and the records that retiring keeps. -/
def Frame (but : Option RegSel) (s t : State) : Prop :=
  SameRegisters but s t ∧ SameMemory s t ∧ SameHidden s t ∧ SameOutside s t

/-- Retired, at `pc + 1`, the words rewritten before still as they were. -/
def Continues (s t : State) : Prop :=
  t.pc = s.pc + 1 ∧ t.retired = s.retired + 1 ∧ t.stale = s.stale

/-- Retired, at `target`. -/
def JumpsTo (target : Word) (s t : State) : Prop := t.pc = target ∧ t.retired = s.retired + 1

/-- The instructions that set the flags, named one by one as R74 names them. -/
def setsFlags (m : Mnemonic) : Bool :=
  match m with
  | .add | .sub | .and | .or | .xor | .not | .adc | .sbc | .cmp | .addi | .subi | .andi | .ori | .xori
  | .cmpi => true
  | .nop | .hlt | .load | .store | .li | .lui | .jmp | .jr | .jalr | .beq | .bne | .blt | .bgt | .bltu
  | .bgtu => false

/-- The register an instruction writes, by its rule. -/
def destination (i : Instr) : Option RegSel :=
  match i with
  | .load rd _ _ | .li rd _ | .lui rd _ | .add rd _ _ | .sub rd _ _ | .and rd _ _ | .or rd _ _
  | .xor rd _ _ | .not rd _ | .addi rd _ _ | .subi rd _ _ | .andi rd _ _ | .ori rd _ _ | .xori rd _ _
  | .jalr rd _ _ | .adc rd _ _ | .sbc rd _ _ => some rd
  | .nop | .hlt | .store _ _ _ | .cmp _ _ | .cmpi _ _ | .jmp _ | .jr _ _ | .beq _ | .bne _ | .blt _
  | .bgt _ | .bltu _ | .bgtu _ => none

/-- The register whose value an instruction uses through port A (R65, `usesA`; R119). -/
def portA (i : Instr) : Option RegSel :=
  match i with
  | .load _ ra _ | .store _ ra _ | .cmp ra _ | .add _ ra _ | .sub _ ra _ | .and _ ra _ | .or _ ra _
  | .xor _ ra _ | .not _ ra | .cmpi ra _ | .addi _ ra _ | .subi _ ra _ | .andi _ ra _ | .ori _ ra _
  | .xori _ ra _ | .jr ra _ | .jalr _ ra _ | .adc _ ra _ | .sbc _ ra _ => some ra
  | .nop | .hlt | .li _ _ | .lui _ _ | .jmp _ | .beq _ | .bne _ | .blt _ | .bgt _ | .bltu _
  | .bgtu _ => none

/-- The register whose value an instruction uses through port B (R65, `usesB`; R119). -/
def portB (i : Instr) : Option RegSel :=
  match i with
  | .store rb _ _ | .cmp _ rb | .add _ _ rb | .sub _ _ rb | .and _ _ rb | .or _ _ rb | .xor _ _ rb
  | .adc _ _ rb | .sbc _ _ rb => some rb
  | .nop | .hlt | .load _ _ _ | .li _ _ | .lui _ _ | .not _ _ | .cmpi _ _ | .addi _ _ _ | .subi _ _ _
  | .andi _ _ _ | .ori _ _ _ | .xori _ _ _ | .jmp _ | .jr _ _ | .jalr _ _ _ | .beq _ | .bne _ | .blt _
  | .bgt _ | .bltu _ | .bgtu _ => none

/-- The operand of a port, where there is one, is defined. -/
def Defined (s : State) (port : Option RegSel) : Prop :=
  ∀ i, port = some i → (s.reg i).word?.isSome = true

/-- The answer when the registers `ra` and then `rb` are used: the fault of the first that is undefined (R119). -/
def FaultsWhereUndefined (s : State) (ra : RegSel) (rb : Option RegSel) (r : Result) : Prop :=
  ((s.reg ra).word? = none → r = .fault (.undefinedRegister ra s.site)) ∧
    ((s.reg ra).word?.isSome = true → ∀ b, rb = some b → (s.reg b).word? = none →
      r = .fault (.undefinedRegister b s.site))

/-- Whether an integer has no 16-bit signed reading: outside -32768..32767 (R73). -/
abbrev Overflows (x : Int) : Prop := x < -32768 ∨ 32767 < x

/-- How a rule of files 40 to 44 encodes its instruction: the opcode, which is its row of the decode table, the format, and the
word of the rule's example. -/
abbrev EncodedAs (m : Mnemonic) (op : BitVec 5) (f : Format) (word : Word) (i : Instr) : Prop :=
  opcodeOf m = op ∧ mnemonicOf op = some m ∧ m.format = f ∧ decode word = .ok i

/-- Both memories are in canonical form. -/
def MemoriesCanonical (s : State) : Prop := Memory.wf s.imem ∧ Memory.wf s.dmem

/-- ID/EX is sound: its control word keeps R69, and where EX raises no fault, an access or a jump has a defined address
or target, and a store a defined word. -/
def SoundIdEx (x : IdEx) : Prop :=
  x.ctl.sound = true ∧
    (exFault x = none → (x.ctl.memLoad || x.ctl.memStore || x.ctl.j) = true →
      (alu x.ctl.aluOp x.a (rightOperand x.ctl.selRight x.b x.ins) x.ctl.cin).y.isSome = true) ∧
    (exFault x = none → x.ctl.memStore = true →
      (storeOperand x.ctl.selStore x.b x.ins x.pc).word?.isSome = true)

/-- EX/MEM is sound: its control word keeps R69, an access has a defined address, and a store a defined word. -/
def SoundExMem (x : ExMem) : Prop :=
  x.ctl.sound = true ∧ ((x.ctl.memLoad || x.ctl.memStore) = true → x.y.isSome = true) ∧
    (x.ctl.memStore = true → x.sop.word?.isSome = true)

/-- No internal error is recorded. -/
def NoInternalError (f : Option Fault) : Prop := ∀ cause site, f ≠ some (.internalError cause site)

/-- The pipeline is sound: no control word in it can raise `InternalError` (R69, R117). -/
def SoundPipeline (s : State) : Prop :=
  SoundIdEx s.idex ∧ SoundExMem s.exmem ∧ NoInternalError s.faulted

/-- The register file in which every write still in flight has been made: what the instruction in ID must see (R137,
R142). `memwb` and `exmem` are what MEM and EX latch this cycle, so WB makes their writes in the next two cycles (R132); `d` is
what the data bus will carry for the younger one. -/
def drained (regs : Vector RegVal 8) (memwb : MemWb) (exmem : ExMem) (d : RegVal) : Vector RegVal 8 :=
  portC (portC regs memwb.ctl memwb.selC (writeBackValue memwb.ctl memwb.y memwb.d)) exmem.ctl exmem.selC
    (writeBackValue exmem.ctl exmem.y d)

/-- `n` clock cycles. -/
def cycles (s : State) (n : Nat) : State :=
  match n with
  | 0 => s
  | k + 1 => cycles (cycle s) k

/-- The cycle raises no fault: it latches (R131). -/
def Latches (s : State) : Prop := s.faulted = none ∧ (cycle s).faulted = none

/-- A step of the instruction level may run: reset released, no stop, `ready` active, nothing in flight, the instruction
level chosen. -/
def AtInstruction (s : State) : Prop :=
  s.rst = false ∧ s.faulted = none ∧ s.halted = false ∧ s.ready = false ∧ s.stepping = .instruction ∧
    s.pipelineIdle = true

/-- A clock cycle may run. -/
def AtCycle (s : State) : Prop :=
  s.rst = false ∧ s.faulted = none ∧ s.halted = false ∧ s.ready = false ∧ s.stepping = .cycle

/-- No rewritten word is remembered for more than the next two instructions (R143). -/
def StaleBounded (s : State) : Prop := ∀ x ∈ s.stale, x.left ≤ 2

/-- `y` is what the store of instruction `i`, executed in `s`, remembers: the word it replaces through IMEM_ALIAS, for the next
two instructions (R51, R143). -/
def NotedByStore (i : Instr) (s : State) (y : StaleWord) : Prop :=
  ∃ rb ra imm base a, i = .store rb ra imm ∧ (s.reg ra).word? = some base ∧
    s.platform.aliasOf (base + imm.signExtend 16) = some a ∧ y = ⟨a, (Memory.readWord s.imem a).word?, 2⟩

/-- The machine stepped at the instruction level holds nothing in flight. -/
def IdleAtInstruction (s : State) : Prop := s.stepping = .instruction → s.pipelineIdle = true

end Sys2Proof.Machine
end

