-- ==== Sys2Proof/Certificates/Slice0/Obligations.lean ====
section
/-! DEFINITION. The statements for the provers. Each docstring names the rule of spec/ it formalises. A claim about an
instruction is about `exec`, the instruction level; a claim about a stage or a cycle is about `cycle`. -/
open Sys2Proof Sys2Proof.Machine

-- Encoding ------------------------------------------------------------------------------------------------

/-- Decoding the word of an instruction gives the instruction back, every operand at every value (R54, R55, R59). -/
def Obligations.DecodeReadsBackEncode : Prop := ∀ i : Instr, decode (encode i) = .ok i

/-- The well-formed words, assigned opcode and ignored bits 0, are exactly the words of instructions (R55, R59). -/
def Obligations.WellFormedWordsAreTheEncodings : Prop :=
  ∀ w : Word, wordWellFormed w = true ↔ ∃ i, encode i = w

/-- A word is refused exactly where its opcode is 19 or 23, and a refusal carries the word's own opcode (R60, R116). -/
def Obligations.IllegalOpcodesAreRefused : Prop :=
  ∀ (w : Word) (e : DecodeError),
    decode w = .error e ↔ (opField w = 19 ∨ opField w = 23) ∧ e = .illegalOpcode (opField w)

/-- Flipping ignored bits leaves the decoded instruction (R55, R60). -/
def Obligations.IgnoredBitsHaveNoEffect : Prop :=
  ∀ (w v : Word) (m : Mnemonic), mnemonicOf (opField w) = some m →
    decode (w ^^^ (v &&& m.format.ignoredMask)) = decode w

/-- Every word with opcode 0 is a NOP; 0x0000 is the canonical one, and it is the bubble of a jump (R61). -/
def Obligations.EveryOpcodeZeroWordIsNop : Prop :=
  (∀ w : Word, w.extractLsb' 11 5 = 0 → decode w = .ok .nop) ∧ encode .nop = 0 ∧
    ∀ (s : State) (imem : Memory) (t : Word), (ifStage s imem (some t)).2.ins = some 0

/-- A few words written out from the examples of files 40 to 44. -/
def Obligations.ExampleWordsDecode : Prop :=
  decode 0x3B28 = .ok (.add 3 1 2) ∧ decode 0x733F = .ok (.addi 3 1 0x1F) ∧
    decode 0x1F2B = .ok (.store 2 1 0x1F) ∧ decode 0x29AB = .ok (.lui 1 0xAB) ∧
    decode 0xA7FE = .ok (.jmp 0x7FE) ∧ decode 0xB720 = .ok (.jalr 7 1 0) ∧
    decode 0xC7FB = .ok (.beq 0x7FB) ∧ decode 0x0800 = .ok .hlt

-- Steps, stops and reset ----------------------------------------------------------------------------------

/-- A step of the instruction level executes the instruction that the fetched word decodes to, in the state in which that
word is in `ir` and the words rewritten earlier have aged by one instruction; where no rewritten word is pending, the fetched
word is the one in instruction memory at PC, and the state executed in differs in `ir` alone. -/
def Obligations.StepRunsTheDecodedInstruction : Prop :=
  (∀ (s : State) (w : Word) (i : Instr), AtInstruction s → s.fetchWord = some w → decode w = .ok i →
    step s = exec i (s.beginInstr w)) ∧
  ∀ (s : State) (w : Word), s.stale = [] → Memory.readWord s.imem s.pc = .ofWord w →
    s.fetchWord = some w ∧ s.beginInstr w = { s with ir := w }

/-- A word placed at PC by `withFetchWord` is what the very next step runs, or refuses to decode. It holds from any state, even
a halted or faulted one (R30, R118), only because `withFetchWord` does more than the bulk store of R37: it also releases reset,
halt, fault and `ready`, empties the pipeline and the stale words, and selects the instruction level. That is the model's, log
entry 8. -/
def Obligations.PlacedWordRunsNext : Prop :=
  ∀ (s : State) (w : Word) (p : State), p = s.withFetchWord 16 w.toNat →
    (∀ i, decode w = .ok i → step p = exec i { p with ir := w }) ∧
      ∀ op, decode w = .error (.illegalOpcode op) →
        step p = .fault (.illegalOpcode op ⟨some s.pc, some w⟩)

/-- At the instruction level an undefined instruction word faults when it is executed, with the address (R39, R68, R117). -/
def Obligations.UndefinedInstructionWordFaults : Prop :=
  ∀ s : State, AtInstruction s → s.stale = [] → (Memory.readWord s.imem s.pc).word? = none →
    step s = .fault (.undefinedInstructionWord s.pc ⟨some s.pc, none⟩)

/-- `halted` is set at the end of a cycle with HLT in EX, cleared by a reset cycle, and while it is set no step runs anything
but a reset cycle (R30). -/
def Obligations.HaltedBitRules : Prop :=
  (∀ s : State, Latches s → ((cycle s).halted = true ↔ s.idex.ctl.hlt = true)) ∧
    (∀ s : State, s.rst = true → ∃ t, step s = .next t ∧ t.halted = false) ∧
    ∀ s t : State, s.halted = true → s.rst = false → step s ≠ .next t

/-- While MEM's `ready` is inactive, a step that would run is refused (R31). -/
def Obligations.InactiveReadyIsRefused : Prop :=
  ∀ s : State, s.rst = false → s.faulted = none → s.halted = false → s.ready = true →
    step s = .refused .memNotReady

/-- The state after reset, by R35, but for registers and flags, whose values are the model's (log entries 1 and 2). -/
def Obligations.ResetStateByTheTable : Prop :=
  State.reset.pc = 0 ∧ State.reset.ifid = ⟨some 0, 0, none⟩ ∧ State.reset.idex.ctl = nopCtl ∧
    State.reset.exmem.ctl = nopCtl ∧ State.reset.memwb.ctl = nopCtl ∧ State.reset.halted = false ∧
    State.reset.faulted = none ∧ State.reset.cycles = 0 ∧ State.reset.retired = 0 ∧
    (∀ i, State.reset.reg i = .ofWord 0) ∧
    State.reset.flags = ⟨some false, some false, some false, some false⟩ ∧
    ∀ a, Memory.readWord State.reset.imem a = .undef ∧ Memory.readWord State.reset.dmem a = .undef

/-- A reset cycle (R129): from any state it gives the reset values of PC, the pipeline, the stops and the counts, keeps both
memories, and holding reset longer changes nothing. The values of registers and flags are the model's (log entries 1 and 2). -/
def Obligations.ResetCycleRestoresTheTable : Prop :=
  ∀ s : State, s.rst = true → ∃ t, step s = .next t ∧
    t.pc = 0 ∧ t.ifid = ⟨some 0, 0, none⟩ ∧ t.idex = .bubble ∧ t.exmem = .bubble ∧ t.memwb = .bubble ∧
    t.halted = false ∧ t.faulted = none ∧ t.cycles = 0 ∧ t.retired = 0 ∧
    t.regs = State.reset.regs ∧ t.flags = State.reset.flags ∧ t.imem = s.imem ∧ t.dmem = s.dmem ∧
    t.events = s.events ∧ step t = .next t ∧ ∀ n, s.pulseReset (n + 1) = s.pulseReset 1

-- Register-register ALU -----------------------------------------------------------------------------------

/-- ADD (R79) and SUB (R80): after SUB, C is "not borrow". -/
def Obligations.AddAndSubResults : Prop :=
  EncodedAs .add 7 .rrr 0x3B28 (.add 3 1 2) ∧ EncodedAs .sub 8 .rrr 0x4328 (.sub 3 1 2) ∧
  ∀ (s : State) (rd ra rb : RegSel),
    (∀ a b, (s.reg ra).word? = some a → (s.reg rb).word? = some b →
      (Completes (exec (.add rd ra rb) s) fun t =>
        t.reg rd = .ofWord (a + b) ∧
        t.flags = ⟨some (decide (2 ^ 16 ≤ a.toNat + b.toNat)), some (decide (a + b = 0)),
          some (decide (Overflows (a.toInt + b.toInt))), some (a + b).msb⟩ ∧
        Continues s t ∧ Frame (some rd) s t) ∧
      Completes (exec (.sub rd ra rb) s) fun t =>
        t.reg rd = .ofWord (a - b) ∧
        t.flags = ⟨some (decide (b.toNat ≤ a.toNat)), some (decide (a - b = 0)),
          some (decide (Overflows (a.toInt - b.toInt))), some (a - b).msb⟩ ∧
        Continues s t ∧ Frame (some rd) s t) ∧
    FaultsWhereUndefined s ra (some rb) (exec (.add rd ra rb) s) ∧
    FaultsWhereUndefined s ra (some rb) (exec (.sub rd ra rb) s)

/-- AND, OR and XOR (R81, R82, R83): Z and N exact, C and V whatever LOGIC_CV gives. -/
def Obligations.LogicResults : Prop :=
  EncodedAs .and 9 .rrr 0x4B28 (.and 3 1 2) ∧ EncodedAs .or 10 .rrr 0x5328 (.or 3 1 2) ∧
  EncodedAs .xor 11 .rrr 0x5B28 (.xor 3 1 2) ∧ ∀ (s : State) (rd ra rb : RegSel),
    (∀ a b, (s.reg ra).word? = some a → (s.reg rb).word? = some b →
      (Completes (exec (.and rd ra rb) s) fun t =>
        t.reg rd = .ofWord (a &&& b) ∧
        t.flags = ⟨some (Config.logicCV .and a (.ofWord b)).1, some (decide (a &&& b = 0)),
          some (Config.logicCV .and a (.ofWord b)).2, some (a &&& b).msb⟩ ∧
        Continues s t ∧ Frame (some rd) s t) ∧
      (Completes (exec (.or rd ra rb) s) fun t =>
        t.reg rd = .ofWord (a ||| b) ∧
        t.flags = ⟨some (Config.logicCV .or a (.ofWord b)).1, some (decide (a ||| b = 0)),
          some (Config.logicCV .or a (.ofWord b)).2, some (a ||| b).msb⟩ ∧
        Continues s t ∧ Frame (some rd) s t) ∧
      Completes (exec (.xor rd ra rb) s) fun t =>
        t.reg rd = .ofWord (a ^^^ b) ∧
        t.flags = ⟨some (Config.logicCV .xor a (.ofWord b)).1, some (decide (a ^^^ b = 0)),
          some (Config.logicCV .xor a (.ofWord b)).2, some (a ^^^ b).msb⟩ ∧
        Continues s t ∧ Frame (some rd) s t) ∧
    FaultsWhereUndefined s ra (some rb) (exec (.and rd ra rb) s) ∧
    FaultsWhereUndefined s ra (some rb) (exec (.or rd ra rb) s) ∧
    FaultsWhereUndefined s ra (some rb) (exec (.xor rd ra rb) s)

/-- NOT (R84): port B, the register `ins[4:2]` selects, is never checked and enters LOGIC_CV alone. -/
def Obligations.NotResult : Prop :=
  EncodedAs .not 12 .rr 0x6320 (.not 3 1) ∧ ∀ (s : State) (rd ra : RegSel),
    (∀ a, (s.reg ra).word? = some a →
      Completes (exec (.not rd ra) s) fun t =>
        t.reg rd = .ofWord (~~~a) ∧
        t.flags = ⟨some (Config.logicCV .not a (s.reg (selB s.ir))).1, some (decide (~~~a = 0)),
          some (Config.logicCV .not a (s.reg (selB s.ir))).2, some (~~~a).msb⟩ ∧
        Continues s t ∧ Frame (some rd) s t) ∧
    FaultsWhereUndefined s ra none (exec (.not rd ra) s)

/-- ADC (R85) and SBC (R86): the carry is read first, and an undefined carry faults before an undefined register. After
SBC, C says that `a >= b + (1 - C)` unsigned (R75). -/
def Obligations.CarryChainResults : Prop :=
  EncodedAs .adc 30 .rrr 0xF328 (.adc 3 1 2) ∧ EncodedAs .sbc 31 .rrr 0xFB28 (.sbc 3 1 2) ∧
  ∀ (s : State) (rd ra rb : RegSel),
    (s.flags.c = none → exec (.adc rd ra rb) s = .fault (.undefinedFlags s.site) ∧
      exec (.sbc rd ra rb) s = .fault (.undefinedFlags s.site)) ∧
    ∀ c : Bool, s.flags.c = some c →
      (∀ a b, (s.reg ra).word? = some a → (s.reg rb).word? = some b →
        (Completes (exec (.adc rd ra rb) s) fun t =>
          t.reg rd = .ofWord (a + b + BitVec.ofNat 16 c.toNat) ∧
          t.flags = ⟨some (decide (2 ^ 16 ≤ a.toNat + b.toNat + c.toNat)),
            some (decide (a + b + BitVec.ofNat 16 c.toNat = 0)),
            some (decide (Overflows (a.toInt + b.toInt + c.toNat))),
            some (a + b + BitVec.ofNat 16 c.toNat).msb⟩ ∧
          Continues s t ∧ Frame (some rd) s t) ∧
        Completes (exec (.sbc rd ra rb) s) fun t =>
          t.reg rd = .ofWord (a + ~~~b + BitVec.ofNat 16 c.toNat) ∧
          t.flags = ⟨some (decide (b.toNat + (1 - c.toNat) ≤ a.toNat)),
            some (decide (a + ~~~b + BitVec.ofNat 16 c.toNat = 0)),
            some (decide (Overflows (a.toInt - b.toInt - (1 - (c.toNat : Int))))),
            some (a + ~~~b + BitVec.ofNat 16 c.toNat).msb⟩ ∧
          Continues s t ∧ Frame (some rd) s t) ∧
      FaultsWhereUndefined s ra (some rb) (exec (.adc rd ra rb) s) ∧
      FaultsWhereUndefined s ra (some rb) (exec (.sbc rd ra rb) s)

/-- CMP (R87): the flags of SUB and no register. -/
def Obligations.CmpResult : Prop :=
  EncodedAs .cmp 6 .crr 0x3028 (.cmp 1 2) ∧ ∀ (s : State) (ra rb : RegSel),
    (∀ a b, (s.reg ra).word? = some a → (s.reg rb).word? = some b →
      Completes (exec (.cmp ra rb) s) fun t =>
        t.flags = ⟨some (decide (b.toNat ≤ a.toNat)), some (decide (a - b = 0)),
          some (decide (Overflows (a.toInt - b.toInt))), some (a - b).msb⟩ ∧
        Continues s t ∧ Frame none s t) ∧
    FaultsWhereUndefined s ra (some rb) (exec (.cmp ra rb) s)

-- Immediate ALU and constants -----------------------------------------------------------------------------

/-- ADDI (R88). -/
def Obligations.AddiResult : Prop :=
  EncodedAs .addi 14 .rri 0x733F (.addi 3 1 0x1F) ∧ ∀ (s : State) (rd ra : RegSel) (imm : BitVec 5),
    (∀ a r, (s.reg ra).word? = some a → r = imm.signExtend 16 →
      Completes (exec (.addi rd ra imm) s) fun t =>
        t.reg rd = .ofWord (a + r) ∧
        t.flags = ⟨some (decide (2 ^ 16 ≤ a.toNat + r.toNat)), some (decide (a + r = 0)),
          some (decide (Overflows (a.toInt + imm.toInt))), some (a + r).msb⟩ ∧
        Continues s t ∧ Frame (some rd) s t) ∧
    FaultsWhereUndefined s ra none (exec (.addi rd ra imm) s)

/-- SUBI (R89) and CMPI (R93): C compares with the sign-extended immediate as an unsigned number. -/
def Obligations.SubiAndCmpiResults : Prop :=
  EncodedAs .subi 15 .rri 0x7B21 (.subi 3 1 1) ∧ EncodedAs .cmpi 13 .ri 0x6825 (.cmpi 1 5) ∧
  ∀ (s : State) (rd ra : RegSel) (imm : BitVec 5),
    (∀ a r, (s.reg ra).word? = some a → r = imm.signExtend 16 →
      ∀ f : Flags, f = ⟨some (decide (r.toNat ≤ a.toNat)), some (decide (a - r = 0)),
          some (decide (Overflows (a.toInt - imm.toInt))), some (a - r).msb⟩ →
        (Completes (exec (.subi rd ra imm) s) fun t =>
          t.reg rd = .ofWord (a - r) ∧ t.flags = f ∧ Continues s t ∧ Frame (some rd) s t) ∧
        Completes (exec (.cmpi ra imm) s) fun t =>
          t.flags = f ∧ Continues s t ∧ Frame none s t) ∧
    FaultsWhereUndefined s ra none (exec (.subi rd ra imm) s) ∧
    FaultsWhereUndefined s ra none (exec (.cmpi ra imm) s)

/-- ANDI, ORI and XORI (R90, R91, R92), the immediate sign-extended. -/
def Obligations.ImmediateLogicResults : Prop :=
  EncodedAs .andi 16 .rri 0x8330 (.andi 3 1 0x10) ∧ EncodedAs .ori 17 .rri 0x8B25 (.ori 3 1 5) ∧
  EncodedAs .xori 18 .rri 0x933F (.xori 3 1 0x1F) ∧
  ∀ (s : State) (rd ra : RegSel) (imm : BitVec 5),
    (∀ a r, (s.reg ra).word? = some a → r = imm.signExtend 16 →
      (Completes (exec (.andi rd ra imm) s) fun t =>
        t.reg rd = .ofWord (a &&& r) ∧
        t.flags = ⟨some (Config.logicCV .and a (.ofWord r)).1, some (decide (a &&& r = 0)),
          some (Config.logicCV .and a (.ofWord r)).2, some (a &&& r).msb⟩ ∧
        Continues s t ∧ Frame (some rd) s t) ∧
      (Completes (exec (.ori rd ra imm) s) fun t =>
        t.reg rd = .ofWord (a ||| r) ∧
        t.flags = ⟨some (Config.logicCV .or a (.ofWord r)).1, some (decide (a ||| r = 0)),
          some (Config.logicCV .or a (.ofWord r)).2, some (a ||| r).msb⟩ ∧
        Continues s t ∧ Frame (some rd) s t) ∧
      Completes (exec (.xori rd ra imm) s) fun t =>
        t.reg rd = .ofWord (a ^^^ r) ∧
        t.flags = ⟨some (Config.logicCV .xor a (.ofWord r)).1, some (decide (a ^^^ r = 0)),
          some (Config.logicCV .xor a (.ofWord r)).2, some (a ^^^ r).msb⟩ ∧
        Continues s t ∧ Frame (some rd) s t) ∧
    FaultsWhereUndefined s ra none (exec (.andi rd ra imm) s) ∧
    FaultsWhereUndefined s ra none (exec (.ori rd ra imm) s) ∧
    FaultsWhereUndefined s ra none (exec (.xori rd ra imm) s)

/-- LI (R94): both bytes, sign-extended; no register is read and no flag changes. LUI (R95): the high byte alone; the low
byte stays, undefined if it was. -/
def Obligations.ConstantResults : Prop :=
  EncodedAs .li 4 .ri8 0x21FF (.li 1 0xFF) ∧ EncodedAs .lui 5 .ri8 0x29AB (.lui 1 0xAB) ∧
  ∀ (s : State) (rd : RegSel) (imm : BitVec 8),
    (Completes (exec (.li rd imm) s) fun t =>
      t.reg rd = .ofWord (imm.signExtend 16) ∧ t.flags = s.flags ∧ Continues s t ∧
      Frame (some rd) s t) ∧
    Completes (exec (.lui rd imm) s) fun t =>
      (t.reg rd).hi = some imm ∧ (t.reg rd).lo = (s.reg rd).lo ∧ t.flags = s.flags ∧
      Continues s t ∧ Frame (some rd) s t

-- Load and store ------------------------------------------------------------------------------------------

/-- LOAD (R96): the data word at `x[ra] + sext_5(imm)`, undefined bytes included and without a fault; a device draw at an
address of IO_MAP; an undefined base faults. -/
def Obligations.LoadResult : Prop :=
  EncodedAs .load 2 .rri 0x123F (.load 2 1 0x1F) ∧ ∀ (s : State) (rd ra : RegSel) (imm : BitVec 5),
    (∀ base e, (s.reg ra).word? = some base → e = base + imm.signExtend 16 →
      (s.platform.isDevice e = false →
        Completes (exec (.load rd ra imm) s) fun t =>
          t.reg rd = Memory.readWord s.dmem e ∧ t.flags = s.flags ∧ Continues s t ∧
          Frame (some rd) s t) ∧
      (s.platform.isDevice e = true →
        Completes (exec (.load rd ra imm) s) fun t =>
          t.reg rd = .ofWord (Config.deviceDraw s.draws e) ∧ t.draws = s.draws + 1 ∧
          t.flags = s.flags ∧ Continues s t ∧ SameRegisters (some rd) s t ∧ SameMemory s t ∧
          SameHidden s t ∧ t.events = s.events ∧ t.choices = s.choices)) ∧
    FaultsWhereUndefined s ra none (exec (.load rd ra imm) s)

/-- STORE (R97) to an ordinary address or a device: the address is `x[ra] + sext_5(imm5s)`. Outside IMEM_ALIAS and IO_MAP
exactly the two bytes of the data word at that address are written; at a device address the pair (address, word) is appended
to the event history and no byte is written. -/
def Obligations.StoreResult : Prop :=
  EncodedAs .store 3 .s 0x1F2B (.store 2 1 0x1F) ∧ ∀ (s : State) (rb ra : RegSel) (imm : BitVec 5),
    (∀ base v e, (s.reg ra).word? = some base → (s.reg rb).word? = some v →
      e = base + imm.signExtend 16 → s.platform.aliasOf e = none →
      (s.platform.isDevice e = false →
        Completes (exec (.store rb ra imm) s) fun t =>
          Memory.readWord t.dmem e = .ofWord v ∧
          (∀ k, k ≠ 2 * e.toNat → k ≠ 2 * e.toNat + 1 →
            Memory.readByte t.dmem k = Memory.readByte s.dmem k) ∧
          (∀ k, Memory.readByte t.imem k = Memory.readByte s.imem k) ∧
          t.flags = s.flags ∧ Continues s t ∧ SameRegisters none s t ∧ SameHidden s t ∧
          SameOutside s t) ∧
      (s.platform.isDevice e = true →
        Completes (exec (.store rb ra imm) s) fun t =>
          t.events = s.events ++ [(e, v)] ∧ SameMemory s t ∧ t.flags = s.flags ∧ Continues s t ∧
          SameRegisters none s t ∧ SameHidden s t ∧ t.draws = s.draws ∧ t.choices = s.choices)) ∧
    FaultsWhereUndefined s ra (some rb) (exec (.store rb ra imm) s)

/-- STORE where IMEM_ALIAS is defined (R46, R97): the instruction word at `IMEM_ALIAS(e)` is written and no other byte of
instruction memory; data memory is written at `e` where the platform parameter says so, and is unchanged where not. Two clauses
are the model's choice: there is no premise on IO_MAP, so an address in both maps makes no output event (log entry 12, where R45
and R97 (3) read alone would record one); and the replaced word is remembered with a count of two instructions (log entry 5). -/
def Obligations.StoreThroughAliasResult : Prop :=
  ∀ (s : State) (rb ra : RegSel) (imm : BitVec 5) (base v e a : Word),
    (s.reg ra).word? = some base → (s.reg rb).word? = some v → e = base + imm.signExtend 16 →
    s.platform.aliasOf e = some a →
    Completes (exec (.store rb ra imm) s) fun t =>
      Memory.readWord t.imem a = .ofWord v ∧
      (∀ k, k ≠ 2 * a.toNat → k ≠ 2 * a.toNat + 1 →
        Memory.readByte t.imem k = Memory.readByte s.imem k) ∧
      (s.platform.aliasWritesData = true → Memory.readWord t.dmem e = .ofWord v) ∧
      (∀ k, s.platform.aliasWritesData = false ∨ (k ≠ 2 * e.toNat ∧ k ≠ 2 * e.toNat + 1) →
        Memory.readByte t.dmem k = Memory.readByte s.dmem k) ∧
      t.stale = s.stale ++ [⟨a, (Memory.readWord s.imem a).word?, 2⟩] ∧
      t.pc = s.pc + 1 ∧ t.retired = s.retired + 1 ∧ t.flags = s.flags ∧ SameRegisters none s t ∧
      SameHidden s t ∧ SameOutside s t

/-- A LOAD that follows a STORE to the same ordinary address returns the stored word (R98, the instruction level). -/
def Obligations.LoadReturnsTheStoredWord : Prop :=
  ∀ (s : State) (rb ra rd ra' : RegSel) (imm imm' : BitVec 5) (base base' v : Word),
    (s.reg ra).word? = some base → (s.reg ra').word? = some base' → (s.reg rb).word? = some v →
    base' + imm'.signExtend 16 = base + imm.signExtend 16 →
    s.platform.aliasOf (base + imm.signExtend 16) = none →
    s.platform.isDevice (base + imm.signExtend 16) = false →
    Completes (exec (.store rb ra imm) s) fun t =>
      Completes (exec (.load rd ra' imm') t) fun u => u.reg rd = .ofWord v

/-- A load of an undefined data word does not fault; any instruction that then uses the register, through port A or, with port
A defined, through port B, does, unless it faults on an undefined flag first (R39, R21, R119). -/
def Obligations.UndefinedDataFaultsOnUse : Prop :=
  ∀ (s : State) (rd ra : RegSel) (imm : BitVec 5) (base : Word),
    (s.reg ra).word? = some base → s.platform.isDevice (base + imm.signExtend 16) = false →
    (Memory.readWord s.dmem (base + imm.signExtend 16)).word? = none →
    Completes (exec (.load rd ra imm) s) fun t =>
      ∀ i : Instr, flagRead i.mnemonic t.flags ≠ some none →
        (portA i = some rd → exec i t = .fault (.undefinedRegister rd t.site)) ∧
        (portB i = some rd → Defined t (portA i) → exec i t = .fault (.undefinedRegister rd t.site))

/-- A memory word reads back as written, and every other word as before (R42, R47). -/
def Obligations.MemoryWordReadsBack : Prop :=
  ∀ (m : Memory) (a b w : Word),
    Memory.readWord (Memory.writeWord m a w) b =
      if b = a then RegVal.ofWord w else Memory.readWord m b

-- Control transfer ----------------------------------------------------------------------------------------

/-- JMP (R105), relative to `pc + 2`; JR (R106) and JALR (R107), whose target comes from the old `x[ra]`; JALR's link is
`pc + 1`. No jump has a delay slot (R102). -/
def Obligations.JumpResults : Prop :=
  EncodedAs .jmp 20 .i11 0xA7FE (.jmp 0x7FE) ∧ EncodedAs .jr 21 .ri 0xA8E0 (.jr 7 0) ∧
  EncodedAs .jalr 22 .rri 0xB720 (.jalr 7 1 0) ∧
  (∀ (s : State) (imm : BitVec 11),
    Completes (exec (.jmp imm) s) fun t =>
      JumpsTo (s.pc + 2 + imm.signExtend 16) s t ∧ t.flags = s.flags ∧ Frame none s t) ∧
  ∀ (s : State) (rd ra : RegSel) (imm : BitVec 5),
    (∀ a, (s.reg ra).word? = some a →
      (Completes (exec (.jr ra imm) s) fun t =>
        JumpsTo (a + imm.signExtend 16) s t ∧ t.flags = s.flags ∧ Frame none s t) ∧
      Completes (exec (.jalr rd ra imm) s) fun t =>
        t.reg rd = .ofWord (s.pc + 1) ∧ JumpsTo (a + imm.signExtend 16) s t ∧
        t.flags = s.flags ∧ Frame (some rd) s t) ∧
    FaultsWhereUndefined s ra none (exec (.jr ra imm) s) ∧
    FaultsWhereUndefined s ra none (exec (.jalr rd ra imm) s)

/-- BEQ and BNE (R108, R109): they read Z alone. -/
def Obligations.EqualityBranchResults : Prop :=
  EncodedAs .beq 24 .i11 0xC7FB (.beq 0x7FB) ∧ EncodedAs .bne 25 .i11 0xC803 (.bne 3) ∧
  ∀ (s : State) (imm : BitVec 11) (target : Word), target = s.pc + 2 + imm.signExtend 16 →
    (∀ z, s.flags.z = some z →
      (Completes (exec (.beq imm) s) fun t =>
        t.pc = (if z = true then target else s.pc + 1) ∧ t.retired = s.retired + 1 ∧
        t.flags = s.flags ∧ Frame none s t) ∧
      Completes (exec (.bne imm) s) fun t =>
        t.pc = (if z = false then target else s.pc + 1) ∧ t.retired = s.retired + 1 ∧
        t.flags = s.flags ∧ Frame none s t) ∧
    (s.flags.z = none → exec (.beq imm) s = .fault (.undefinedFlags s.site) ∧
      exec (.bne imm) s = .fault (.undefinedFlags s.site))

/-- BLT and BGT (R110, R111): BLT reads N and V, BGT reads Z, N and V. -/
def Obligations.SignedBranchResults : Prop :=
  EncodedAs .blt 26 .i11 0xD3FF (.blt 0x3FF) ∧ EncodedAs .bgt 27 .i11 0xDC00 (.bgt 0x400) ∧
  ∀ (s : State) (imm : BitVec 11) (target : Word), target = s.pc + 2 + imm.signExtend 16 →
    (∀ n v, s.flags.n = some n → s.flags.v = some v →
      (Completes (exec (.blt imm) s) fun t =>
        t.pc = (if n ≠ v then target else s.pc + 1) ∧ t.retired = s.retired + 1 ∧
        t.flags = s.flags ∧ Frame none s t) ∧
      ∀ z, s.flags.z = some z →
        Completes (exec (.bgt imm) s) fun t =>
          t.pc = (if z = false ∧ n = v then target else s.pc + 1) ∧ t.retired = s.retired + 1 ∧
          t.flags = s.flags ∧ Frame none s t) ∧
    (s.flags.n = none ∨ s.flags.v = none → exec (.blt imm) s = .fault (.undefinedFlags s.site)) ∧
    (s.flags.z = none ∨ s.flags.n = none ∨ s.flags.v = none →
      exec (.bgt imm) s = .fault (.undefinedFlags s.site))

/-- BLTU and BGTU (R112, R113): BLTU reads C, BGTU reads C and Z. -/
def Obligations.UnsignedBranchResults : Prop :=
  EncodedAs .bltu 28 .i11 0xE001 (.bltu 1) ∧ EncodedAs .bgtu 29 .i11 0xEFFF (.bgtu 0x7FF) ∧
  ∀ (s : State) (imm : BitVec 11) (target : Word), target = s.pc + 2 + imm.signExtend 16 →
    (∀ c, s.flags.c = some c →
      (Completes (exec (.bltu imm) s) fun t =>
        t.pc = (if c = false then target else s.pc + 1) ∧ t.retired = s.retired + 1 ∧
        t.flags = s.flags ∧ Frame none s t) ∧
      ∀ z, s.flags.z = some z →
        Completes (exec (.bgtu imm) s) fun t =>
          t.pc = (if c = true ∧ z = false then target else s.pc + 1) ∧ t.retired = s.retired + 1 ∧
          t.flags = s.flags ∧ Frame none s t) ∧
    (s.flags.c = none → exec (.bltu imm) s = .fault (.undefinedFlags s.site)) ∧
    (s.flags.c = none ∨ s.flags.z = none → exec (.bgtu imm) s = .fault (.undefinedFlags s.site))

/-- After `CMP ra, rb` each branch goes where the comparison it is named for says (R103): equal, not equal, less and greater
as signed and as unsigned numbers. -/
def Obligations.BranchesDecideTheComparison : Prop :=
  ∀ (s : State) (ra rb : RegSel) (a b : Word) (imm : BitVec 11),
    (s.reg ra).word? = some a → (s.reg rb).word? = some b →
    Completes (exec (.cmp ra rb) s) fun t =>
      ∀ target, target = t.pc + 2 + imm.signExtend 16 →
        (Completes (exec (.beq imm) t) fun u => u.pc = if a = b then target else t.pc + 1) ∧
        (Completes (exec (.bne imm) t) fun u => u.pc = if a ≠ b then target else t.pc + 1) ∧
        (Completes (exec (.blt imm) t) fun u =>
          u.pc = if a.toInt < b.toInt then target else t.pc + 1) ∧
        (Completes (exec (.bgt imm) t) fun u =>
          u.pc = if b.toInt < a.toInt then target else t.pc + 1) ∧
        (Completes (exec (.bltu imm) t) fun u =>
          u.pc = if a.toNat < b.toNat then target else t.pc + 1) ∧
        Completes (exec (.bgtu imm) t) fun u =>
          u.pc = if b.toNat < a.toNat then target else t.pc + 1

-- System --------------------------------------------------------------------------------------------------

/-- NOP (R114): PC alone; it does not count as retired (R132). -/
def Obligations.NopResult : Prop :=
  EncodedAs .nop 0 .n 0x0000 .nop ∧ ∀ s : State,
    Completes (exec .nop s) fun t =>
      t.pc = s.pc + 1 ∧ t.flags = s.flags ∧ t.retired = s.retired ∧ t.stale = s.stale ∧
      Frame none s t

/-- HLT (R115): the core halts; flags, memories, event history and draws stay. Where nothing retired just before, every
register stays and no choice is made; otherwise the register that the instruction just before wrote holds either the value it
computed or the value it replaced, and every other register stays. The last clause says so over two executions, `i` and then HLT:
each register is as `i` left it, or it is `i`'s destination and holds what it held before `i`; the flags and the memory store of
`i` stay. That PC moves to `pc + 1` is the model's reading (log entry 17), and so is the record `prior` (log entries 5, 23). -/
def Obligations.HltResult : Prop :=
  EncodedAs .hlt 1 .n 0x0800 .hlt ∧ (∀ s : State,
    Completes (exec .hlt s) fun t =>
      t.halted = true ∧ t.pc = s.pc + 1 ∧ t.flags = s.flags ∧ SameMemory s t ∧
      SameHidden { s with halted := true } t ∧ t.events = s.events ∧ t.draws = s.draws ∧
      (s.prior = none → SameRegisters none s t ∧ t.retired = s.retired ∧ t.choices = s.choices) ∧
      ∀ w, s.prior = some ⟨w⟩ →
        (SameRegisters none s t ∨
          ∃ rd old, w = some (rd, old) ∧ t.reg rd = old ∧ SameRegisters (some rd) s t) ∧
        (t.retired = s.retired ∨ t.retired = s.retired - 1)) ∧
  ∀ (i : Instr) (s t : State), exec i s = .next t →
    Completes (exec .hlt t) fun u =>
      u.halted = true ∧ u.flags = t.flags ∧ SameMemory t u ∧
      (∀ r, u.reg r = t.reg r ∨ (destination i = some r ∧ u.reg r = s.reg r)) ∧
      (u.retired = t.retired ∨ u.retired = s.retired)

-- Rules over all instructions -----------------------------------------------------------------------------

/-- Every instruction either completes or faults, in this order: an undefined flag it reads, an undefined port-A register, an
undefined port-B register; with none of these it completes (R119, R120 at the instruction level). -/
def Obligations.EveryInstructionCompletesOrFaultsInOrder : Prop :=
  ∀ (i : Instr) (s : State),
    (flagRead i.mnemonic s.flags = some none → exec i s = .fault (.undefinedFlags s.site)) ∧
    (flagRead i.mnemonic s.flags ≠ some none →
      (∀ ra, portA i = some ra → (s.reg ra).word? = none →
        exec i s = .fault (.undefinedRegister ra s.site)) ∧
      (Defined s (portA i) →
        (∀ rb, portB i = some rb → (s.reg rb).word? = none →
          exec i s = .fault (.undefinedRegister rb s.site)) ∧
        (Defined s (portB i) → ∃ t, exec i s = .next t)))

/-- The flags rule (R74). The decode row of an instruction asserts `fi` exactly for the 15 flag-setting instructions; a cycle
latches the ALU's flags where `fi` is asserted and keeps the flags where not; and an instruction outside the 15 leaves them. -/
def Obligations.OnlyTheFlagSettersWriteFlags : Prop :=
  (∀ (m : Mnemonic) (bit : Bool), (controlRow m bit).fi = setsFlags m) ∧
  (∀ s : State, Latches s →
    (s.idex.ctl.fi = true → (cycle s).flags =
      (alu s.idex.ctl.aluOp s.idex.a (rightOperand s.idex.ctl.selRight s.idex.b s.idex.ins)
        s.idex.ctl.cin).flags) ∧
    (s.idex.ctl.fi = false → (cycle s).flags = s.flags)) ∧
  ∀ (i : Instr) (s t : State), setsFlags i.mnemonic = false → exec i s = .next t → t.flags = s.flags

/-- The carry convention (R75): the carry out after an addition, "not borrow" after a subtraction; which instructions
subtract with carry-in 1, and which take the carry flag. -/
def Obligations.CarryConvention : Prop :=
  (∀ (m : Mnemonic) (bit : Bool), m = .sub ∨ m = .cmp ∨ m = .subi ∨ m = .cmpi →
    (controlRow m bit).aluOp = .sub ∧ (controlRow m bit).cin = true) ∧
  (∀ bit : Bool, (controlRow .add bit).aluOp = .add ∧ (controlRow .adc bit).aluOp = .add ∧
    (controlRow .adc bit).cin = bit ∧ (controlRow .sbc bit).aluOp = .sub ∧
    (controlRow .sbc bit).cin = bit) ∧
  (∀ (a r : Word) (c : Bool), (aluAdd a r c).c = decide (2 ^ 16 ≤ a.toNat + r.toNat + c.toNat)) ∧
    (∀ a r : Word, (aluSub a r true).c = decide (r.toNat ≤ a.toNat)) ∧
    (∀ (a r : Word) (c : Bool),
      (aluSub a r c).c = decide (r.toNat + (1 - c.toNat) ≤ a.toNat)) ∧
    (∀ a r : Word, (aluSub a r true).y = a - r) ∧
    ∀ (a r : Word) (c : Bool), (aluSub a r c).v =
      decide (Overflows (a.toInt - r.toInt - (1 - (c.toNat : Int))))

/-- An instruction other than HLT writes no register but its destination (R19, files 40 to 44). -/
def Obligations.OnlyTheDestinationIsWritten : Prop :=
  ∀ (i : Instr) (s t : State), i ≠ .hlt → exec i s = .next t → SameRegisters (destination i) s t

/-- No instruction but STORE changes a byte of either memory or the event history, and none but LOAD draws from a device
(R42). -/
def Obligations.OnlyStoreWritesMemory : Prop :=
  ∀ (i : Instr) (s t : State), exec i s = .next t →
    ((∀ rb ra imm, i ≠ .store rb ra imm) → SameMemory s t ∧ t.events = s.events) ∧
    ((∀ rd ra imm, i ≠ .load rd ra imm) → t.draws = s.draws)

/-- No instruction touches the pipeline registers, the input lines or the platform, and only HLT halts (R122, R123, R128). That
none touches the cycle count or the level either is the model's choice (log entries 18 and 6). -/
def Obligations.OnlyHltHalts : Prop :=
  ∀ (i : Instr) (s t : State), exec i s = .next t →
    SameHidden { s with halted := t.halted } t ∧ (t.halted = true ↔ i = .hlt ∨ s.halted = true)

/-- Every step, at either level and on reset, keeps both memories in canonical form. -/
def Obligations.StepKeepsMemoriesCanonical : Prop :=
  ∀ s t : State, MemoriesCanonical s → step s = .next t → MemoriesCanonical t

/-- Nothing is ever in flight at the instruction level: every step keeps the pipeline idle there (R5, R12). -/
def Obligations.InstructionLevelStaysIdle : Prop :=
  ∀ s t : State, IdleAtInstruction s → step s = .next t → IdleAtInstruction t

/-- The invariants hold of the reset state. -/
def Obligations.ResetMeetsTheInvariants : Prop :=
  MemoriesCanonical State.reset ∧ IdleAtInstruction State.reset ∧ SoundPipeline State.reset ∧
    StaleBounded State.reset

/-- The instruction-level window of rewritten words (R143). What is fetched is the word in memory at PC or, by a remembered entry
for PC, one that a store replaced. Every step, at either level, keeps each entry's count at 2 or less. After a step of the
instruction level each entry is one from before with its count one less and not yet 0, or the one that this step's own STORE
noted with count 2: so a word that two instructions have passed is gone. That the old word is remembered so, and that a taken
jump or a reset forgets it, is the model's choice (log entries 5 and 24). -/
def Obligations.RewrittenWordsAreStaleForTwoInstructions : Prop :=
  (∀ s : State, s.fetchWord ∈ s.fetchCandidates) ∧
  (∀ s : State, s.fetchWord = (Memory.readWord s.imem s.pc).word? ∨
    ∃ x ∈ s.stale, x.addr = s.pc ∧ s.fetchWord = x.old) ∧
  (∀ s t : State, StaleBounded s → step s = .next t → StaleBounded t) ∧
  (∀ s t : State, s.stepping = .instruction → step s = .next t → ∀ y ∈ t.stale,
    (∃ x ∈ s.stale, y.addr = x.addr ∧ y.old = x.old ∧ y.left + 1 = x.left ∧ y.left ≠ 0) ∨
    ∃ w i, s.fetchWord = some w ∧ decode w = .ok i ∧ NotedByStore i s y) ∧
  ∀ (s : State) (w w' : Word), StaleBounded s → ((s.beginInstr w).beginInstr w').stale = []

-- The cycle -----------------------------------------------------------------------------------------------

/-- The decode table row by row (R65): a field that is not named has its NOPCTL value. Opcodes 24 to 31 read the flags (R66);
while reset is asserted the row is NOPCTL. -/
def Obligations.DecodeTableRows : Prop :=
  (∀ f : Flags,
    decodeControl 0 f false = nopCtl ∧
    decodeControl 1 f false = { nopCtl with hlt := true } ∧
    decodeControl 2 f false = { nopCtl with
      selRight := .imm5, aluOp := .add, memLoad := true, wbSrc := .bus, writeLo := true,
      writeHi := true, wben := true, usesA := true } ∧
    decodeControl 3 f false = { nopCtl with
      selRight := .imm5Split, selStore := .regB, aluOp := .add, memStore := true,
      assertStoreOp := true, usesA := true, usesB := true } ∧
    decodeControl 4 f false = { nopCtl with
      selStore := .imm8Lo, assertStoreOp := true, wbSrc := .bus, writeLo := true, writeHi := true,
      wben := true } ∧
    decodeControl 5 f false = { nopCtl with
      selStore := .imm8Hi, assertStoreOp := true, wbSrc := .bus, writeHi := true, wben := true } ∧
    decodeControl 6 f false = { nopCtl with
      selRight := .regB, aluOp := .sub, cin := true, fi := true, usesA := true, usesB := true } ∧
    decodeControl 7 f false = { nopCtl with
      selRight := .regB, aluOp := .add, cin := false, fi := true, writeLo := true, writeHi := true,
      wben := true, usesA := true, usesB := true } ∧
    decodeControl 8 f false = { nopCtl with
      selRight := .regB, aluOp := .sub, cin := true, fi := true, writeLo := true, writeHi := true,
      wben := true, usesA := true, usesB := true } ∧
    decodeControl 9 f false = { nopCtl with
      selRight := .regB, aluOp := .logic .and, cin := false, fi := true, writeLo := true,
      writeHi := true, wben := true, usesA := true, usesB := true } ∧
    decodeControl 10 f false = { nopCtl with
      selRight := .regB, aluOp := .logic .or, cin := false, fi := true, writeLo := true,
      writeHi := true, wben := true, usesA := true, usesB := true } ∧
    decodeControl 11 f false = { nopCtl with
      selRight := .regB, aluOp := .logic .xor, cin := false, fi := true, writeLo := true,
      writeHi := true, wben := true, usesA := true, usesB := true } ∧
    decodeControl 12 f false = { nopCtl with
      selRight := .regB, aluOp := .logic .not, cin := false, fi := true, writeLo := true,
      writeHi := true, wben := true, usesA := true, usesB := false } ∧
    decodeControl 13 f false = { nopCtl with
      selRight := .imm5, aluOp := .sub, cin := true, fi := true, usesA := true, usesB := false } ∧
    decodeControl 14 f false = { nopCtl with
      selRight := .imm5, aluOp := .add, cin := false, fi := true, writeLo := true, writeHi := true,
      wben := true, usesA := true, usesB := false } ∧
    decodeControl 15 f false = { nopCtl with
      selRight := .imm5, aluOp := .sub, cin := true, fi := true, writeLo := true, writeHi := true,
      wben := true, usesA := true, usesB := false } ∧
    decodeControl 16 f false = { nopCtl with
      selRight := .imm5, aluOp := .logic .and, cin := false, fi := true, writeLo := true,
      writeHi := true, wben := true, usesA := true, usesB := false } ∧
    decodeControl 17 f false = { nopCtl with
      selRight := .imm5, aluOp := .logic .or, cin := false, fi := true, writeLo := true,
      writeHi := true, wben := true, usesA := true, usesB := false } ∧
    decodeControl 18 f false = { nopCtl with
      selRight := .imm5, aluOp := .logic .xor, cin := false, fi := true, writeLo := true,
      writeHi := true, wben := true, usesA := true, usesB := false } ∧
    decodeControl 19 f false = { nopCtl with fault := some (.illegalOpcode 19) } ∧
    decodeControl 20 f false = { nopCtl with selRight := .imm11, aluOp := .passR, j := true } ∧
    decodeControl 21 f false = { nopCtl with
      selRight := .imm5, aluOp := .add, j := true, jabs := true, usesA := true } ∧
    decodeControl 22 f false = { nopCtl with
      selRight := .imm5, selStore := .pcLink, aluOp := .add, j := true, jabs := true,
      assertStoreOp := true, wbSrc := .bus, writeLo := true, writeHi := true, wben := true,
      usesA := true } ∧
    decodeControl 23 f false = { nopCtl with fault := some (.illegalOpcode 23) }) ∧
  (∀ (f : Flags) (c z v n : Bool), f = ⟨some c, some z, some v, some n⟩ →
    decodeControl 24 f false = { nopCtl with selRight := .imm11, aluOp := .passR, j := z } ∧
    decodeControl 25 f false = { nopCtl with selRight := .imm11, aluOp := .passR, j := !z } ∧
    decodeControl 26 f false = { nopCtl with selRight := .imm11, aluOp := .passR, j := n != v } ∧
    decodeControl 27 f false = { nopCtl with
      selRight := .imm11, aluOp := .passR, j := !z && n == v } ∧
    decodeControl 28 f false = { nopCtl with selRight := .imm11, aluOp := .passR, j := !c } ∧
    decodeControl 29 f false = { nopCtl with selRight := .imm11, aluOp := .passR, j := c && !z } ∧
    decodeControl 30 f false = { nopCtl with
      selRight := .regB, aluOp := .add, cin := c, fi := true, writeLo := true, writeHi := true,
      wben := true, usesA := true, usesB := true } ∧
    decodeControl 31 f false = { nopCtl with
      selRight := .regB, aluOp := .sub, cin := c, fi := true, writeLo := true, writeHi := true,
      wben := true, usesA := true, usesB := true }) ∧
  ∀ (op : BitVec 5) (f : Flags), decodeControl op f true = nopCtl

/-- The decode table never breaks its invariants, and each selector holds one of its values (R69). MEM's check refuses exactly the
control words that break them, and a cycle with such a word in MEM raises `InternalError`: of invariants (1) and (2) by R133; that
MEM checks (4) too is the model's choice (log entry 15). -/
def Obligations.DecodeRowsKeepTheInvariants : Prop :=
  (∀ (op : BitVec 5) (f : Flags) (rst : Bool) (c : ControlWord), c = decodeControl op f rst →
    ¬(c.memLoad = true ∧ c.assertStoreOp = true) ∧ ¬(c.memLoad = true ∧ c.memStore = true) ∧
      (c.selRight = .regB ∨ c.selRight = .imm5 ∨ c.selRight = .imm5Split ∨ c.selRight = .imm11) ∧
      (c.selStore = .regB ∨ c.selStore = .pcLink ∨ c.selStore = .imm8Lo ∨ c.selStore = .imm8Hi) ∧
      (c.wbSrc = .bus → c.memLoad = true ∨ c.assertStoreOp = true)) ∧
  (∀ (s : State) (cause : InternalCause), memCheck s.exmem.ctl = some cause →
    (cycle s).faulted = some (.internalError cause ⟨s.exmem.pc, none⟩)) ∧
  ∀ c : ControlWord,
    (((c.memLoad = true ∧ c.assertStoreOp = true) ∨ (c.memLoad = true ∧ c.memStore = true) ∨
      (c.wbSrc = .bus ∧ c.memLoad = false ∧ c.assertStoreOp = false)) ↔ memCheck c ≠ none)

/-- What enters the decode table beside the opcode (R66, R67, R68). The flags matter for opcodes 24 to 31 alone: a branch
asserts `j` exactly where its condition holds, ADC and SBC take C as carry-in, and an undefined flag that is read gives the
row with `fault = UndefinedFlags`; that `j` and `cin` are deasserted in that row is the model's choice (log entry 26). While
reset is asserted every opcode decodes to NOPCTL. An undefined word decodes to NOPCTL with its fault. -/
def Obligations.DecodeTableInputs : Prop :=
  (∀ (op : BitVec 5) (f g : Flags), op < 24 → decodeControl op f false = decodeControl op g false) ∧
  (∀ (f : Flags) (c z v n : Bool), f = ⟨some c, some z, some v, some n⟩ →
    (decodeControl 24 f false).j = z ∧ (decodeControl 25 f false).j = !z ∧
    (decodeControl 26 f false).j = (n != v) ∧ (decodeControl 27 f false).j = (!z && n == v) ∧
    (decodeControl 28 f false).j = !c ∧ (decodeControl 29 f false).j = (c && !z) ∧
    (decodeControl 30 f false).cin = c ∧ (decodeControl 31 f false).cin = c) ∧
  (∀ (op : BitVec 5) (m : Mnemonic) (f : Flags), mnemonicOf op = some m →
    (flagRead m f = some none →
      decodeControl op f false = { controlRow m false with fault := some .undefinedFlags }) ∧
    (flagRead m f ≠ some none → (decodeControl op f false).fault = none)) ∧
  (∀ (op : BitVec 5) (f : Flags), decodeControl op f true = nopCtl) ∧
  ∀ (x : IfId) (f : Flags), x.ins = none →
    decodeFetched x f false = { nopCtl with fault := some (.undefinedInstructionWord x.pc) }

/-- Every step keeps the pipeline sound: no control word in flight breaks R69, every access has a defined address, every
store a defined word, every jump a defined target, and no internal error is recorded (R69, R117). -/
def Obligations.StepKeepsThePipelineSound : Prop :=
  ∀ s t : State, SoundPipeline s → step s = .next t → SoundPipeline t

/-- The hazard unit's cases (R137), the youngest producer first: a producer in EX, else one in MEM, else the register. -/
def Obligations.HazardUnitResolutions : Prop :=
  ∀ (x : IdEx) (y : ExMem) (r : RegSel),
    (x.ctl.wben = true ∧ x.selC = some r →
      resolve x y r = if x.ctl.wbSrc = .alu ∧ x.ctl.writeLo = true ∧ x.ctl.writeHi = true
        then .exFwd else .stall) ∧
    (¬(x.ctl.wben = true ∧ x.selC = some r) →
      (y.ctl.wben = true ∧ y.selC = some r →
        resolve x y r = if y.ctl.writeLo = true ∧ y.ctl.writeHi = true then .memFwd else .stall) ∧
      (¬(y.ctl.wben = true ∧ y.selC = some r) → resolve x y r = .fromRegister))

/-- The hazard unit is right (R137, R142): where it does not stall, the operand ID takes is what the register file will hold
once every write in flight has been made: first the write of what MEM latches, by the value that WB forms from it (R132, R133),
then the write of what EX latches, whatever `d` the data bus will carry for it. Where ID does not stall and EX does not jump,
those operands are what ID/EX holds after the cycle. -/
def Obligations.ForwardedOperandIsTheYoungestValue : Prop :=
  ∀ (s : State) (m : MemOut) (x : ExOut) (d : RegVal) (regs : Vector RegVal 8),
    memStage (wbStage s) = .ok m → exStage s.pc s.idex = .ok x →
    regs = drained m.after.regs m.memwb x.exmem d →
    (∀ r, resolve s.idex s.exmem r ≠ .stall →
      operandValue m.after.regs x.fwd m.fwd r (resolve s.idex s.exmem r) = regOf regs r) ∧
    (s.idex.ctl.j = false → stallSignal s = false →
      (cycle s).idex.a = regOf regs (selA (idWord s.ifid)) ∧
      (cycle s).idex.b = regOf regs (selB (idWord s.ifid)))

/-- A consumer right after a LOAD, LI or JALR stalls, and for one cycle only: the next cycle does not stall, and the register is
then forwarded by MEM. Behind a JALR the stall coincides with the jump, which squashes the consumer; what follows at the target
reads every register from the register file (R139). A consumer right after a LUI stalls two cycles, then reads the register
(R137, R146; 90_conflicts.md C3). -/
def Obligations.LoadUseStallsOneCycle : Prop :=
  ∀ (s : State) (r : RegSel), Latches s → s.idex.ctl.wben = true → s.idex.selC = some r →
    r = selA (idWord s.ifid) ∨ r = selB (idWord s.ifid) →
    (s.idex.ctl.wbSrc = .bus → s.idex.ctl.writeLo = true → s.idex.ctl.writeHi = true →
      stallSignal s = true ∧ (cycle s).idex.ctl = nopCtl ∧ stallSignal (cycle s) = false ∧
      resolve (cycle s).idex (cycle s).exmem r = .memFwd ∧
      (s.idex.ctl.j = false → (cycle s).ifid = s.ifid ∧ (cycle s).pc = s.pc) ∧
      (s.idex.ctl.j = true → (cycle s).ifid.ins = some 0 ∧
        (Latches (cycle s) → stallSignal (cycle (cycle s)) = false ∧
          ∀ q, resolve (cycle (cycle s)).idex (cycle (cycle s)).exmem q = .fromRegister))) ∧
    (s.idex.ctl.writeLo = false → s.idex.ctl.j = false →
      stallSignal s = true ∧ (cycle s).ifid = s.ifid ∧ stallSignal (cycle s) = true ∧
      (Latches (cycle s) → (cycle (cycle s)).ifid = s.ifid ∧ stallSignal (cycle (cycle s)) = false ∧
        resolve (cycle (cycle s)).idex (cycle (cycle s)).exmem r = .fromRegister))

/-- The flags hazard (R138): it holds exactly where the word in ID is one of the six branches, ADC or SBC and EX sets the
flags; it stalls for one cycle, after which the flags are latched and it holds no more. -/
def Obligations.FlagsHazardStallsOneCycle : Prop :=
  (∀ (w : Word) (x : IdEx), flagsHazard w x = true ↔ x.ctl.fi = true ∧
    ∃ m, mnemonicOf (opField w) = some m ∧
      (m = .beq ∨ m = .bne ∨ m = .blt ∨ m = .bgt ∨ m = .bltu ∨ m = .bgtu ∨ m = .adc ∨ m = .sbc)) ∧
  ∀ s : State, Latches s → s.idex.ctl.j = false → flagsHazard (idWord s.ifid) s.idex = true →
    stallSignal s = true ∧ (cycle s).ifid = s.ifid ∧
      flagsHazard (idWord (cycle s).ifid) (cycle s).idex = false ∧
      (cycle s).flags = (alu s.idex.ctl.aluOp s.idex.a
        (rightOperand s.idex.ctl.selRight s.idex.b s.idex.ins) s.idex.ctl.cin).flags

/-- What IF does (R136), in a cycle that raises no fault: a jump loads PC and leaves a bubble; else a stall holds PC and
IF/ID; else the word at PC, in instruction memory after MEM's store, is fetched and PC advances. -/
def Obligations.FetchStageRules : Prop :=
  ∀ s : State, Latches s →
    (s.idex.ctl.j = true → ∃ y,
      (alu s.idex.ctl.aluOp s.idex.a (rightOperand s.idex.ctl.selRight s.idex.b s.idex.ins)
        s.idex.ctl.cin).y = some y ∧
      (cycle s).pc = (if s.idex.ctl.jabs = true then y else s.pc + y) ∧
      (cycle s).ifid.ins = some 0 ∧ (cycle s).ifid.pc = (cycle s).pc) ∧
    (s.idex.ctl.j = false → stallSignal s = true →
      (cycle s).pc = s.pc ∧ (cycle s).ifid = s.ifid) ∧
    (s.idex.ctl.j = false → stallSignal s = false →
      (cycle s).pc = s.pc + 1 ∧ (cycle s).ifid.pc = s.pc ∧
      (cycle s).ifid.ins = (Memory.readWord (cycle s).imem s.pc).word?)

/-- A jump in EX and a stall both put the NOP control word in ID/EX, so what is in ID is squashed or held back; EX and MEM
advance all the same (R139, R140). -/
def Obligations.FlushAndStallSquashDecode : Prop :=
  ∀ (s : State) (m : MemOut) (x : ExOut), memStage (wbStage s) = .ok m →
    exStage s.pc s.idex = .ok x → s.idex.ctl.j = true ∨ stallSignal s = true →
    (cycle s).idex.ctl = nopCtl ∧ (cycle s).exmem = x.exmem ∧ (cycle s).memwb = m.memwb

/-- A fault in a cycle (R118): it stops the model with WB and MEM done and nothing latched; every later step answers that
fault, until a reset cycle clears it. -/
def Obligations.FaultStopsWithNothingLatched : Prop :=
  ∀ (s : State) (f : Fault), s.rst = false → s.faulted = none → (cycle s).faulted = some f →
    (cycle s).regs = (wbStage s).regs ∧ (cycle s).flags = s.flags ∧ (cycle s).pc = s.pc ∧
    (cycle s).ifid = s.ifid ∧ (cycle s).idex = s.idex ∧ (cycle s).exmem = s.exmem ∧
    (cycle s).memwb = s.memwb ∧ (cycle s).halted = s.halted ∧ (cycle s).cycles = s.cycles ∧
    (∀ m, memStage (wbStage s) = .ok m → (cycle s).imem = m.after.imem ∧
      (cycle s).dmem = m.after.dmem ∧ (cycle s).events = m.after.events) ∧
    step (cycle s) = .fault f ∧
    ∃ t, step ((cycle s).setReset true) = .next t ∧ t.faulted = none

/-- EX checks the control word's fault first, then port A where it is used, then port B where it is used (R119). -/
def Obligations.FaultOrderInEx : Prop :=
  ∀ x : IdEx,
    (∀ c, x.ctl.fault = some c → exFault x = some (c.raise ⟨x.pc, x.ins⟩)) ∧
    (x.ctl.fault = none →
      (x.ctl.usesA = true → x.a.word? = none →
        exFault x = some (.undefinedRegister (selA (x.ins.getD 0)) ⟨x.pc, x.ins⟩)) ∧
      (x.ctl.usesA = false ∨ x.a.word?.isSome = true →
        (x.ctl.usesB = true → x.b.word? = none →
          exFault x = some (.undefinedRegister (selB (x.ins.getD 0)) ⟨x.pc, x.ins⟩)) ∧
        (x.ctl.usesB = false ∨ x.b.word?.isSome = true → exFault x = none)))

/-- WB (R132): each byte of `selC` whose enable and `wben` are asserted takes the byte of the ALU result or of the bus, and
nothing else is written; the retirement count grows unless the control word is NOPCTL. A cycle that latches counts as one
(R34, R131). -/
def Obligations.WriteBackStageRules : Prop :=
  ∀ (s : State) (v : RegVal), v = (if s.memwb.ctl.wbSrc = .alu then .ofOption s.memwb.y else s.memwb.d) →
    (∀ r, s.memwb.ctl.wben = true ∧ s.memwb.selC = some r →
      ((wbStage s).reg r).lo = (if s.memwb.ctl.writeLo = true then v.lo else (s.reg r).lo) ∧
      ((wbStage s).reg r).hi = (if s.memwb.ctl.writeHi = true then v.hi else (s.reg r).hi)) ∧
    (∀ r, ¬(s.memwb.ctl.wben = true ∧ s.memwb.selC = some r) → (wbStage s).reg r = s.reg r) ∧
    (wbStage s).retired = (if s.memwb.ctl = nopCtl then s.retired else s.retired + 1) ∧
    (Latches s → (cycle s).retired = (wbStage s).retired ∧ (cycle s).cycles = s.cycles + 1)

/-- HLT takes effect in EX (R141): the core is halted after that cycle, no cycle follows, and what the instruction in MEM was
to write back is not written. -/
def Obligations.HaltTakesEffectInEx : Prop :=
  ∀ s : State, AtCycle s → Latches s → s.idex.ctl.hlt = true →
    step s = .next (cycle s) ∧ (cycle s).halted = true ∧ (cycle s).regs = (wbStage s).regs ∧
      step (cycle s) = .fault .halted

/-- One instruction but HLT through the pipeline (R142). From an empty pipeline, with the instruction's word at PC and NOPs in
the two words after it, five cycles leave registers, flags, memories, event history, draws and retirement count as the instruction
level does; a store through IMEM_ALIAS is no exception, as the two words after it were fetched before it (R133, R143). While the
instruction is in EX, IF's PC is two past its address (R100); where it then jumps, that cycle loads PC with the instruction
level's PC, and it jumps wherever the instruction level does not continue at the next address. HLT is HaltTakesEffectInEx. -/
def Obligations.PipelineRunsOneInstructionAsExec : Prop :=
  ∀ (s t : State) (w w1 w2 : Word) (i : Instr),
    s.rst = false → s.faulted = none → s.pipelineIdle = true →
    Memory.readWord s.imem s.pc = .ofWord w → decode w = .ok i → i ≠ .hlt →
    Memory.readWord s.imem (s.pc + 1) = .ofWord w1 → decode w1 = .ok .nop →
    Memory.readWord s.imem (s.pc + 2) = .ofWord w2 → decode w2 = .ok .nop →
    exec i { s with ir := w } = .next t →
    (cycles s 5).faulted = none ∧ (cycles s 5).regs = t.regs ∧ (cycles s 5).flags = t.flags ∧
      (cycles s 5).imem = t.imem ∧ (cycles s 5).dmem = t.dmem ∧ (cycles s 5).events = t.events ∧
      (cycles s 5).draws = t.draws ∧ (cycles s 5).retired = t.retired ∧
      (cycles s 2).pc = s.pc + 2 ∧
      ((cycles s 2).idex.ctl.j = true → (cycles s 3).pc = t.pc) ∧
      ((cycles s 2).idex.ctl.j = false → t.pc = s.pc + 1)
end

