-- ==== Sys2Proof/Laws/State.lean ====
section
/-! SUPPORT. One lemma per field per state update: what the update makes of the field. -/
namespace Sys2Proof.Machine

-- State.setReg
@[simp] theorem State.setReg_regs (s : State) (i : RegSel) (v : RegVal) :
    (s.setReg i v).regs = setRegOf s.regs i v := rfl
@[simp] theorem State.setReg_flags (s : State) (i : RegSel) (v : RegVal) : (s.setReg i v).flags = s.flags := rfl
@[simp] theorem State.setReg_pc (s : State) (i : RegSel) (v : RegVal) : (s.setReg i v).pc = s.pc := rfl
@[simp] theorem State.setReg_ifid (s : State) (i : RegSel) (v : RegVal) : (s.setReg i v).ifid = s.ifid := rfl
@[simp] theorem State.setReg_idex (s : State) (i : RegSel) (v : RegVal) : (s.setReg i v).idex = s.idex := rfl
@[simp] theorem State.setReg_exmem (s : State) (i : RegSel) (v : RegVal) : (s.setReg i v).exmem = s.exmem := rfl
@[simp] theorem State.setReg_memwb (s : State) (i : RegSel) (v : RegVal) : (s.setReg i v).memwb = s.memwb := rfl
@[simp] theorem State.setReg_halted (s : State) (i : RegSel) (v : RegVal) : (s.setReg i v).halted = s.halted := rfl
@[simp] theorem State.setReg_faulted (s : State) (i : RegSel) (v : RegVal) : (s.setReg i v).faulted = s.faulted := rfl
@[simp] theorem State.setReg_rst (s : State) (i : RegSel) (v : RegVal) : (s.setReg i v).rst = s.rst := rfl
@[simp] theorem State.setReg_ready (s : State) (i : RegSel) (v : RegVal) : (s.setReg i v).ready = s.ready := rfl
@[simp] theorem State.setReg_cycles (s : State) (i : RegSel) (v : RegVal) : (s.setReg i v).cycles = s.cycles := rfl
@[simp] theorem State.setReg_retired (s : State) (i : RegSel) (v : RegVal) : (s.setReg i v).retired = s.retired := rfl
@[simp] theorem State.setReg_imem (s : State) (i : RegSel) (v : RegVal) : (s.setReg i v).imem = s.imem := rfl
@[simp] theorem State.setReg_dmem (s : State) (i : RegSel) (v : RegVal) : (s.setReg i v).dmem = s.dmem := rfl
@[simp] theorem State.setReg_platform (s : State) (i : RegSel) (v : RegVal) :
    (s.setReg i v).platform = s.platform := rfl
@[simp] theorem State.setReg_events (s : State) (i : RegSel) (v : RegVal) : (s.setReg i v).events = s.events := rfl
@[simp] theorem State.setReg_draws (s : State) (i : RegSel) (v : RegVal) : (s.setReg i v).draws = s.draws := rfl
@[simp] theorem State.setReg_stepping (s : State) (i : RegSel) (v : RegVal) :
    (s.setReg i v).stepping = s.stepping := rfl
@[simp] theorem State.setReg_ir (s : State) (i : RegSel) (v : RegVal) : (s.setReg i v).ir = s.ir := rfl
@[simp] theorem State.setReg_prior (s : State) (i : RegSel) (v : RegVal) : (s.setReg i v).prior = s.prior := rfl
@[simp] theorem State.setReg_stale (s : State) (i : RegSel) (v : RegVal) : (s.setReg i v).stale = s.stale := rfl
@[simp] theorem State.setReg_choices (s : State) (i : RegSel) (v : RegVal) : (s.setReg i v).choices = s.choices := rfl

-- State.setFlags
@[simp] theorem State.setFlags_regs (s : State) (f : Flags) : (s.setFlags f).regs = s.regs := rfl
@[simp] theorem State.setFlags_flags (s : State) (f : Flags) : (s.setFlags f).flags = f := rfl
@[simp] theorem State.setFlags_pc (s : State) (f : Flags) : (s.setFlags f).pc = s.pc := rfl
@[simp] theorem State.setFlags_ifid (s : State) (f : Flags) : (s.setFlags f).ifid = s.ifid := rfl
@[simp] theorem State.setFlags_idex (s : State) (f : Flags) : (s.setFlags f).idex = s.idex := rfl
@[simp] theorem State.setFlags_exmem (s : State) (f : Flags) : (s.setFlags f).exmem = s.exmem := rfl
@[simp] theorem State.setFlags_memwb (s : State) (f : Flags) : (s.setFlags f).memwb = s.memwb := rfl
@[simp] theorem State.setFlags_halted (s : State) (f : Flags) : (s.setFlags f).halted = s.halted := rfl
@[simp] theorem State.setFlags_faulted (s : State) (f : Flags) : (s.setFlags f).faulted = s.faulted := rfl
@[simp] theorem State.setFlags_rst (s : State) (f : Flags) : (s.setFlags f).rst = s.rst := rfl
@[simp] theorem State.setFlags_ready (s : State) (f : Flags) : (s.setFlags f).ready = s.ready := rfl
@[simp] theorem State.setFlags_cycles (s : State) (f : Flags) : (s.setFlags f).cycles = s.cycles := rfl
@[simp] theorem State.setFlags_retired (s : State) (f : Flags) : (s.setFlags f).retired = s.retired := rfl
@[simp] theorem State.setFlags_imem (s : State) (f : Flags) : (s.setFlags f).imem = s.imem := rfl
@[simp] theorem State.setFlags_dmem (s : State) (f : Flags) : (s.setFlags f).dmem = s.dmem := rfl
@[simp] theorem State.setFlags_platform (s : State) (f : Flags) : (s.setFlags f).platform = s.platform := rfl
@[simp] theorem State.setFlags_events (s : State) (f : Flags) : (s.setFlags f).events = s.events := rfl
@[simp] theorem State.setFlags_draws (s : State) (f : Flags) : (s.setFlags f).draws = s.draws := rfl
@[simp] theorem State.setFlags_stepping (s : State) (f : Flags) : (s.setFlags f).stepping = s.stepping := rfl
@[simp] theorem State.setFlags_ir (s : State) (f : Flags) : (s.setFlags f).ir = s.ir := rfl
@[simp] theorem State.setFlags_prior (s : State) (f : Flags) : (s.setFlags f).prior = s.prior := rfl
@[simp] theorem State.setFlags_stale (s : State) (f : Flags) : (s.setFlags f).stale = s.stale := rfl
@[simp] theorem State.setFlags_choices (s : State) (f : Flags) : (s.setFlags f).choices = s.choices := rfl

-- State.retire
@[simp] theorem State.retire_regs (s : State) (w : Option (RegSel × RegVal)) : (s.retire w).regs = s.regs := rfl
@[simp] theorem State.retire_flags (s : State) (w : Option (RegSel × RegVal)) : (s.retire w).flags = s.flags := rfl
@[simp] theorem State.retire_pc (s : State) (w : Option (RegSel × RegVal)) : (s.retire w).pc = s.pc + 1 := rfl
@[simp] theorem State.retire_ifid (s : State) (w : Option (RegSel × RegVal)) : (s.retire w).ifid = s.ifid := rfl
@[simp] theorem State.retire_idex (s : State) (w : Option (RegSel × RegVal)) : (s.retire w).idex = s.idex := rfl
@[simp] theorem State.retire_exmem (s : State) (w : Option (RegSel × RegVal)) : (s.retire w).exmem = s.exmem := rfl
@[simp] theorem State.retire_memwb (s : State) (w : Option (RegSel × RegVal)) : (s.retire w).memwb = s.memwb := rfl
@[simp] theorem State.retire_halted (s : State) (w : Option (RegSel × RegVal)) : (s.retire w).halted = s.halted := rfl
@[simp] theorem State.retire_faulted (s : State) (w : Option (RegSel × RegVal)) :
    (s.retire w).faulted = s.faulted := rfl
@[simp] theorem State.retire_rst (s : State) (w : Option (RegSel × RegVal)) : (s.retire w).rst = s.rst := rfl
@[simp] theorem State.retire_ready (s : State) (w : Option (RegSel × RegVal)) : (s.retire w).ready = s.ready := rfl
@[simp] theorem State.retire_cycles (s : State) (w : Option (RegSel × RegVal)) : (s.retire w).cycles = s.cycles := rfl
@[simp] theorem State.retire_retired (s : State) (w : Option (RegSel × RegVal)) :
    (s.retire w).retired = s.retired + 1 := rfl
@[simp] theorem State.retire_imem (s : State) (w : Option (RegSel × RegVal)) : (s.retire w).imem = s.imem := rfl
@[simp] theorem State.retire_dmem (s : State) (w : Option (RegSel × RegVal)) : (s.retire w).dmem = s.dmem := rfl
@[simp] theorem State.retire_platform (s : State) (w : Option (RegSel × RegVal)) :
    (s.retire w).platform = s.platform := rfl
@[simp] theorem State.retire_events (s : State) (w : Option (RegSel × RegVal)) : (s.retire w).events = s.events := rfl
@[simp] theorem State.retire_draws (s : State) (w : Option (RegSel × RegVal)) : (s.retire w).draws = s.draws := rfl
@[simp] theorem State.retire_stepping (s : State) (w : Option (RegSel × RegVal)) :
    (s.retire w).stepping = s.stepping := rfl
@[simp] theorem State.retire_ir (s : State) (w : Option (RegSel × RegVal)) : (s.retire w).ir = s.ir := rfl
@[simp] theorem State.retire_prior (s : State) (w : Option (RegSel × RegVal)) : (s.retire w).prior = some ⟨w⟩ := rfl
@[simp] theorem State.retire_stale (s : State) (w : Option (RegSel × RegVal)) : (s.retire w).stale = s.stale := rfl
@[simp] theorem State.retire_choices (s : State) (w : Option (RegSel × RegVal)) :
    (s.retire w).choices = s.choices := rfl

-- State.commit
@[simp] theorem State.commit_regs (s : State) (rd : RegSel) (v : RegVal) :
    (s.commit rd v).regs = setRegOf s.regs rd v := rfl
@[simp] theorem State.commit_flags (s : State) (rd : RegSel) (v : RegVal) : (s.commit rd v).flags = s.flags := rfl
@[simp] theorem State.commit_pc (s : State) (rd : RegSel) (v : RegVal) : (s.commit rd v).pc = s.pc + 1 := rfl
@[simp] theorem State.commit_ifid (s : State) (rd : RegSel) (v : RegVal) : (s.commit rd v).ifid = s.ifid := rfl
@[simp] theorem State.commit_idex (s : State) (rd : RegSel) (v : RegVal) : (s.commit rd v).idex = s.idex := rfl
@[simp] theorem State.commit_exmem (s : State) (rd : RegSel) (v : RegVal) : (s.commit rd v).exmem = s.exmem := rfl
@[simp] theorem State.commit_memwb (s : State) (rd : RegSel) (v : RegVal) : (s.commit rd v).memwb = s.memwb := rfl
@[simp] theorem State.commit_halted (s : State) (rd : RegSel) (v : RegVal) : (s.commit rd v).halted = s.halted := rfl
@[simp] theorem State.commit_faulted (s : State) (rd : RegSel) (v : RegVal) :
    (s.commit rd v).faulted = s.faulted := rfl
@[simp] theorem State.commit_rst (s : State) (rd : RegSel) (v : RegVal) : (s.commit rd v).rst = s.rst := rfl
@[simp] theorem State.commit_ready (s : State) (rd : RegSel) (v : RegVal) : (s.commit rd v).ready = s.ready := rfl
@[simp] theorem State.commit_cycles (s : State) (rd : RegSel) (v : RegVal) : (s.commit rd v).cycles = s.cycles := rfl
@[simp] theorem State.commit_retired (s : State) (rd : RegSel) (v : RegVal) :
    (s.commit rd v).retired = s.retired + 1 := rfl
@[simp] theorem State.commit_imem (s : State) (rd : RegSel) (v : RegVal) : (s.commit rd v).imem = s.imem := rfl
@[simp] theorem State.commit_dmem (s : State) (rd : RegSel) (v : RegVal) : (s.commit rd v).dmem = s.dmem := rfl
@[simp] theorem State.commit_platform (s : State) (rd : RegSel) (v : RegVal) :
    (s.commit rd v).platform = s.platform := rfl
@[simp] theorem State.commit_events (s : State) (rd : RegSel) (v : RegVal) : (s.commit rd v).events = s.events := rfl
@[simp] theorem State.commit_draws (s : State) (rd : RegSel) (v : RegVal) : (s.commit rd v).draws = s.draws := rfl
@[simp] theorem State.commit_stepping (s : State) (rd : RegSel) (v : RegVal) :
    (s.commit rd v).stepping = s.stepping := rfl
@[simp] theorem State.commit_ir (s : State) (rd : RegSel) (v : RegVal) : (s.commit rd v).ir = s.ir := rfl
@[simp] theorem State.commit_prior (s : State) (rd : RegSel) (v : RegVal) :
    (s.commit rd v).prior = some ⟨some (rd, s.reg rd)⟩ := rfl
@[simp] theorem State.commit_stale (s : State) (rd : RegSel) (v : RegVal) : (s.commit rd v).stale = s.stale := rfl
@[simp] theorem State.commit_choices (s : State) (rd : RegSel) (v : RegVal) :
    (s.commit rd v).choices = s.choices := rfl

-- State.commitAlu
@[simp] theorem State.commitAlu_regs (s : State) (rd : RegSel) (o : AluOut) :
    (s.commitAlu rd o).regs = setRegOf s.regs rd (.ofWord o.y) := rfl
@[simp] theorem State.commitAlu_flags (s : State) (rd : RegSel) (o : AluOut) :
    (s.commitAlu rd o).flags = o.flags := rfl
@[simp] theorem State.commitAlu_pc (s : State) (rd : RegSel) (o : AluOut) : (s.commitAlu rd o).pc = s.pc + 1 := rfl
@[simp] theorem State.commitAlu_ifid (s : State) (rd : RegSel) (o : AluOut) : (s.commitAlu rd o).ifid = s.ifid := rfl
@[simp] theorem State.commitAlu_idex (s : State) (rd : RegSel) (o : AluOut) : (s.commitAlu rd o).idex = s.idex := rfl
@[simp] theorem State.commitAlu_exmem (s : State) (rd : RegSel) (o : AluOut) :
    (s.commitAlu rd o).exmem = s.exmem := rfl
@[simp] theorem State.commitAlu_memwb (s : State) (rd : RegSel) (o : AluOut) :
    (s.commitAlu rd o).memwb = s.memwb := rfl
@[simp] theorem State.commitAlu_halted (s : State) (rd : RegSel) (o : AluOut) :
    (s.commitAlu rd o).halted = s.halted := rfl
@[simp] theorem State.commitAlu_faulted (s : State) (rd : RegSel) (o : AluOut) :
    (s.commitAlu rd o).faulted = s.faulted := rfl
@[simp] theorem State.commitAlu_rst (s : State) (rd : RegSel) (o : AluOut) : (s.commitAlu rd o).rst = s.rst := rfl
@[simp] theorem State.commitAlu_ready (s : State) (rd : RegSel) (o : AluOut) :
    (s.commitAlu rd o).ready = s.ready := rfl
@[simp] theorem State.commitAlu_cycles (s : State) (rd : RegSel) (o : AluOut) :
    (s.commitAlu rd o).cycles = s.cycles := rfl
@[simp] theorem State.commitAlu_retired (s : State) (rd : RegSel) (o : AluOut) :
    (s.commitAlu rd o).retired = s.retired + 1 := rfl
@[simp] theorem State.commitAlu_imem (s : State) (rd : RegSel) (o : AluOut) : (s.commitAlu rd o).imem = s.imem := rfl
@[simp] theorem State.commitAlu_dmem (s : State) (rd : RegSel) (o : AluOut) : (s.commitAlu rd o).dmem = s.dmem := rfl
@[simp] theorem State.commitAlu_platform (s : State) (rd : RegSel) (o : AluOut) :
    (s.commitAlu rd o).platform = s.platform := rfl
@[simp] theorem State.commitAlu_events (s : State) (rd : RegSel) (o : AluOut) :
    (s.commitAlu rd o).events = s.events := rfl
@[simp] theorem State.commitAlu_draws (s : State) (rd : RegSel) (o : AluOut) :
    (s.commitAlu rd o).draws = s.draws := rfl
@[simp] theorem State.commitAlu_stepping (s : State) (rd : RegSel) (o : AluOut) :
    (s.commitAlu rd o).stepping = s.stepping := rfl
@[simp] theorem State.commitAlu_ir (s : State) (rd : RegSel) (o : AluOut) : (s.commitAlu rd o).ir = s.ir := rfl
@[simp] theorem State.commitAlu_prior (s : State) (rd : RegSel) (o : AluOut) :
    (s.commitAlu rd o).prior = some ⟨some (rd, s.reg rd)⟩ := rfl
@[simp] theorem State.commitAlu_stale (s : State) (rd : RegSel) (o : AluOut) :
    (s.commitAlu rd o).stale = s.stale := rfl
@[simp] theorem State.commitAlu_choices (s : State) (rd : RegSel) (o : AluOut) :
    (s.commitAlu rd o).choices = s.choices := rfl

-- State.commitFlags
@[simp] theorem State.commitFlags_regs (s : State) (o : AluOut) : (s.commitFlags o).regs = s.regs := rfl
@[simp] theorem State.commitFlags_flags (s : State) (o : AluOut) : (s.commitFlags o).flags = o.flags := rfl
@[simp] theorem State.commitFlags_pc (s : State) (o : AluOut) : (s.commitFlags o).pc = s.pc + 1 := rfl
@[simp] theorem State.commitFlags_ifid (s : State) (o : AluOut) : (s.commitFlags o).ifid = s.ifid := rfl
@[simp] theorem State.commitFlags_idex (s : State) (o : AluOut) : (s.commitFlags o).idex = s.idex := rfl
@[simp] theorem State.commitFlags_exmem (s : State) (o : AluOut) : (s.commitFlags o).exmem = s.exmem := rfl
@[simp] theorem State.commitFlags_memwb (s : State) (o : AluOut) : (s.commitFlags o).memwb = s.memwb := rfl
@[simp] theorem State.commitFlags_halted (s : State) (o : AluOut) : (s.commitFlags o).halted = s.halted := rfl
@[simp] theorem State.commitFlags_faulted (s : State) (o : AluOut) : (s.commitFlags o).faulted = s.faulted := rfl
@[simp] theorem State.commitFlags_rst (s : State) (o : AluOut) : (s.commitFlags o).rst = s.rst := rfl
@[simp] theorem State.commitFlags_ready (s : State) (o : AluOut) : (s.commitFlags o).ready = s.ready := rfl
@[simp] theorem State.commitFlags_cycles (s : State) (o : AluOut) : (s.commitFlags o).cycles = s.cycles := rfl
@[simp] theorem State.commitFlags_retired (s : State) (o : AluOut) : (s.commitFlags o).retired = s.retired + 1 := rfl
@[simp] theorem State.commitFlags_imem (s : State) (o : AluOut) : (s.commitFlags o).imem = s.imem := rfl
@[simp] theorem State.commitFlags_dmem (s : State) (o : AluOut) : (s.commitFlags o).dmem = s.dmem := rfl
@[simp] theorem State.commitFlags_platform (s : State) (o : AluOut) : (s.commitFlags o).platform = s.platform := rfl
@[simp] theorem State.commitFlags_events (s : State) (o : AluOut) : (s.commitFlags o).events = s.events := rfl
@[simp] theorem State.commitFlags_draws (s : State) (o : AluOut) : (s.commitFlags o).draws = s.draws := rfl
@[simp] theorem State.commitFlags_stepping (s : State) (o : AluOut) : (s.commitFlags o).stepping = s.stepping := rfl
@[simp] theorem State.commitFlags_ir (s : State) (o : AluOut) : (s.commitFlags o).ir = s.ir := rfl
@[simp] theorem State.commitFlags_prior (s : State) (o : AluOut) : (s.commitFlags o).prior = some ⟨none⟩ := rfl
@[simp] theorem State.commitFlags_stale (s : State) (o : AluOut) : (s.commitFlags o).stale = s.stale := rfl
@[simp] theorem State.commitFlags_choices (s : State) (o : AluOut) : (s.commitFlags o).choices = s.choices := rfl

-- State.jumpTo
@[simp] theorem State.jumpTo_regs (s : State) (t : Word) : (s.jumpTo t).regs = s.regs := rfl
@[simp] theorem State.jumpTo_flags (s : State) (t : Word) : (s.jumpTo t).flags = s.flags := rfl
@[simp] theorem State.jumpTo_pc (s : State) (t : Word) : (s.jumpTo t).pc = t := rfl
@[simp] theorem State.jumpTo_ifid (s : State) (t : Word) : (s.jumpTo t).ifid = s.ifid := rfl
@[simp] theorem State.jumpTo_idex (s : State) (t : Word) : (s.jumpTo t).idex = s.idex := rfl
@[simp] theorem State.jumpTo_exmem (s : State) (t : Word) : (s.jumpTo t).exmem = s.exmem := rfl
@[simp] theorem State.jumpTo_memwb (s : State) (t : Word) : (s.jumpTo t).memwb = s.memwb := rfl
@[simp] theorem State.jumpTo_halted (s : State) (t : Word) : (s.jumpTo t).halted = s.halted := rfl
@[simp] theorem State.jumpTo_faulted (s : State) (t : Word) : (s.jumpTo t).faulted = s.faulted := rfl
@[simp] theorem State.jumpTo_rst (s : State) (t : Word) : (s.jumpTo t).rst = s.rst := rfl
@[simp] theorem State.jumpTo_ready (s : State) (t : Word) : (s.jumpTo t).ready = s.ready := rfl
@[simp] theorem State.jumpTo_cycles (s : State) (t : Word) : (s.jumpTo t).cycles = s.cycles := rfl
@[simp] theorem State.jumpTo_retired (s : State) (t : Word) : (s.jumpTo t).retired = s.retired + 1 := rfl
@[simp] theorem State.jumpTo_imem (s : State) (t : Word) : (s.jumpTo t).imem = s.imem := rfl
@[simp] theorem State.jumpTo_dmem (s : State) (t : Word) : (s.jumpTo t).dmem = s.dmem := rfl
@[simp] theorem State.jumpTo_platform (s : State) (t : Word) : (s.jumpTo t).platform = s.platform := rfl
@[simp] theorem State.jumpTo_events (s : State) (t : Word) : (s.jumpTo t).events = s.events := rfl
@[simp] theorem State.jumpTo_draws (s : State) (t : Word) : (s.jumpTo t).draws = s.draws := rfl
@[simp] theorem State.jumpTo_stepping (s : State) (t : Word) : (s.jumpTo t).stepping = s.stepping := rfl
@[simp] theorem State.jumpTo_ir (s : State) (t : Word) : (s.jumpTo t).ir = s.ir := rfl
@[simp] theorem State.jumpTo_prior (s : State) (t : Word) : (s.jumpTo t).prior = none := rfl
@[simp] theorem State.jumpTo_stale (s : State) (t : Word) : (s.jumpTo t).stale = [] := rfl
@[simp] theorem State.jumpTo_choices (s : State) (t : Word) : (s.jumpTo t).choices = s.choices := rfl

-- State.skip
@[simp] theorem State.skip_regs (s : State) : (s.skip).regs = s.regs := rfl
@[simp] theorem State.skip_flags (s : State) : (s.skip).flags = s.flags := rfl
@[simp] theorem State.skip_pc (s : State) : (s.skip).pc = s.pc + 1 := rfl
@[simp] theorem State.skip_ifid (s : State) : (s.skip).ifid = s.ifid := rfl
@[simp] theorem State.skip_idex (s : State) : (s.skip).idex = s.idex := rfl
@[simp] theorem State.skip_exmem (s : State) : (s.skip).exmem = s.exmem := rfl
@[simp] theorem State.skip_memwb (s : State) : (s.skip).memwb = s.memwb := rfl
@[simp] theorem State.skip_halted (s : State) : (s.skip).halted = s.halted := rfl
@[simp] theorem State.skip_faulted (s : State) : (s.skip).faulted = s.faulted := rfl
@[simp] theorem State.skip_rst (s : State) : (s.skip).rst = s.rst := rfl
@[simp] theorem State.skip_ready (s : State) : (s.skip).ready = s.ready := rfl
@[simp] theorem State.skip_cycles (s : State) : (s.skip).cycles = s.cycles := rfl
@[simp] theorem State.skip_retired (s : State) : (s.skip).retired = s.retired := rfl
@[simp] theorem State.skip_imem (s : State) : (s.skip).imem = s.imem := rfl
@[simp] theorem State.skip_dmem (s : State) : (s.skip).dmem = s.dmem := rfl
@[simp] theorem State.skip_platform (s : State) : (s.skip).platform = s.platform := rfl
@[simp] theorem State.skip_events (s : State) : (s.skip).events = s.events := rfl
@[simp] theorem State.skip_draws (s : State) : (s.skip).draws = s.draws := rfl
@[simp] theorem State.skip_stepping (s : State) : (s.skip).stepping = s.stepping := rfl
@[simp] theorem State.skip_ir (s : State) : (s.skip).ir = s.ir := rfl
@[simp] theorem State.skip_prior (s : State) : (s.skip).prior = none := rfl
@[simp] theorem State.skip_stale (s : State) : (s.skip).stale = s.stale := rfl
@[simp] theorem State.skip_choices (s : State) : (s.skip).choices = s.choices := rfl

-- State.stopWith
@[simp] theorem State.stopWith_regs (s : State) (f : Fault) : (s.stopWith f).regs = s.regs := rfl
@[simp] theorem State.stopWith_flags (s : State) (f : Fault) : (s.stopWith f).flags = s.flags := rfl
@[simp] theorem State.stopWith_pc (s : State) (f : Fault) : (s.stopWith f).pc = s.pc := rfl
@[simp] theorem State.stopWith_ifid (s : State) (f : Fault) : (s.stopWith f).ifid = s.ifid := rfl
@[simp] theorem State.stopWith_idex (s : State) (f : Fault) : (s.stopWith f).idex = s.idex := rfl
@[simp] theorem State.stopWith_exmem (s : State) (f : Fault) : (s.stopWith f).exmem = s.exmem := rfl
@[simp] theorem State.stopWith_memwb (s : State) (f : Fault) : (s.stopWith f).memwb = s.memwb := rfl
@[simp] theorem State.stopWith_halted (s : State) (f : Fault) : (s.stopWith f).halted = s.halted := rfl
@[simp] theorem State.stopWith_faulted (s : State) (f : Fault) : (s.stopWith f).faulted = some f := rfl
@[simp] theorem State.stopWith_rst (s : State) (f : Fault) : (s.stopWith f).rst = s.rst := rfl
@[simp] theorem State.stopWith_ready (s : State) (f : Fault) : (s.stopWith f).ready = s.ready := rfl
@[simp] theorem State.stopWith_cycles (s : State) (f : Fault) : (s.stopWith f).cycles = s.cycles := rfl
@[simp] theorem State.stopWith_retired (s : State) (f : Fault) : (s.stopWith f).retired = s.retired := rfl
@[simp] theorem State.stopWith_imem (s : State) (f : Fault) : (s.stopWith f).imem = s.imem := rfl
@[simp] theorem State.stopWith_dmem (s : State) (f : Fault) : (s.stopWith f).dmem = s.dmem := rfl
@[simp] theorem State.stopWith_platform (s : State) (f : Fault) : (s.stopWith f).platform = s.platform := rfl
@[simp] theorem State.stopWith_events (s : State) (f : Fault) : (s.stopWith f).events = s.events := rfl
@[simp] theorem State.stopWith_draws (s : State) (f : Fault) : (s.stopWith f).draws = s.draws := rfl
@[simp] theorem State.stopWith_stepping (s : State) (f : Fault) : (s.stopWith f).stepping = s.stepping := rfl
@[simp] theorem State.stopWith_ir (s : State) (f : Fault) : (s.stopWith f).ir = s.ir := rfl
@[simp] theorem State.stopWith_prior (s : State) (f : Fault) : (s.stopWith f).prior = s.prior := rfl
@[simp] theorem State.stopWith_stale (s : State) (f : Fault) : (s.stopWith f).stale = s.stale := rfl
@[simp] theorem State.stopWith_choices (s : State) (f : Fault) : (s.stopWith f).choices = s.choices := rfl

-- State.beginInstr
@[simp] theorem State.beginInstr_regs (s : State) (w : Word) : (s.beginInstr w).regs = s.regs := rfl
@[simp] theorem State.beginInstr_flags (s : State) (w : Word) : (s.beginInstr w).flags = s.flags := rfl
@[simp] theorem State.beginInstr_pc (s : State) (w : Word) : (s.beginInstr w).pc = s.pc := rfl
@[simp] theorem State.beginInstr_ifid (s : State) (w : Word) : (s.beginInstr w).ifid = s.ifid := rfl
@[simp] theorem State.beginInstr_idex (s : State) (w : Word) : (s.beginInstr w).idex = s.idex := rfl
@[simp] theorem State.beginInstr_exmem (s : State) (w : Word) : (s.beginInstr w).exmem = s.exmem := rfl
@[simp] theorem State.beginInstr_memwb (s : State) (w : Word) : (s.beginInstr w).memwb = s.memwb := rfl
@[simp] theorem State.beginInstr_halted (s : State) (w : Word) : (s.beginInstr w).halted = s.halted := rfl
@[simp] theorem State.beginInstr_faulted (s : State) (w : Word) : (s.beginInstr w).faulted = s.faulted := rfl
@[simp] theorem State.beginInstr_rst (s : State) (w : Word) : (s.beginInstr w).rst = s.rst := rfl
@[simp] theorem State.beginInstr_ready (s : State) (w : Word) : (s.beginInstr w).ready = s.ready := rfl
@[simp] theorem State.beginInstr_cycles (s : State) (w : Word) : (s.beginInstr w).cycles = s.cycles := rfl
@[simp] theorem State.beginInstr_retired (s : State) (w : Word) : (s.beginInstr w).retired = s.retired := rfl
@[simp] theorem State.beginInstr_imem (s : State) (w : Word) : (s.beginInstr w).imem = s.imem := rfl
@[simp] theorem State.beginInstr_dmem (s : State) (w : Word) : (s.beginInstr w).dmem = s.dmem := rfl
@[simp] theorem State.beginInstr_platform (s : State) (w : Word) : (s.beginInstr w).platform = s.platform := rfl
@[simp] theorem State.beginInstr_events (s : State) (w : Word) : (s.beginInstr w).events = s.events := rfl
@[simp] theorem State.beginInstr_draws (s : State) (w : Word) : (s.beginInstr w).draws = s.draws := rfl
@[simp] theorem State.beginInstr_stepping (s : State) (w : Word) : (s.beginInstr w).stepping = s.stepping := rfl
@[simp] theorem State.beginInstr_ir (s : State) (w : Word) : (s.beginInstr w).ir = w := rfl
@[simp] theorem State.beginInstr_prior (s : State) (w : Word) : (s.beginInstr w).prior = s.prior := rfl
@[simp] theorem State.beginInstr_stale (s : State) (w : Word) :
    (s.beginInstr w).stale = (s.stale.map StaleWord.tick).filter fun x => x.left != 0 := rfl
@[simp] theorem State.beginInstr_choices (s : State) (w : Word) :
    (s.beginInstr w).choices = if s.fetchCandidates.length = 1 then s.choices else s.choices + 1 := rfl

-- State.resetCycle
@[simp] theorem State.resetCycle_regs (s : State) :
    (s.resetCycle).regs = Vector.replicate 8 Config.resetRegister := rfl
@[simp] theorem State.resetCycle_flags (s : State) :
    (s.resetCycle).flags = ⟨Config.resetFlag, Config.resetFlag, Config.resetFlag, Config.resetFlag⟩ := rfl
@[simp] theorem State.resetCycle_pc (s : State) : (s.resetCycle).pc = 0 := rfl
@[simp] theorem State.resetCycle_ifid (s : State) : (s.resetCycle).ifid = .bubble := rfl
@[simp] theorem State.resetCycle_idex (s : State) : (s.resetCycle).idex = .bubble := rfl
@[simp] theorem State.resetCycle_exmem (s : State) : (s.resetCycle).exmem = .bubble := rfl
@[simp] theorem State.resetCycle_memwb (s : State) : (s.resetCycle).memwb = .bubble := rfl
@[simp] theorem State.resetCycle_halted (s : State) : (s.resetCycle).halted = false := rfl
@[simp] theorem State.resetCycle_faulted (s : State) : (s.resetCycle).faulted = none := rfl
@[simp] theorem State.resetCycle_rst (s : State) : (s.resetCycle).rst = s.rst := rfl
@[simp] theorem State.resetCycle_ready (s : State) : (s.resetCycle).ready = s.ready := rfl
@[simp] theorem State.resetCycle_cycles (s : State) : (s.resetCycle).cycles = 0 := rfl
@[simp] theorem State.resetCycle_retired (s : State) : (s.resetCycle).retired = 0 := rfl
@[simp] theorem State.resetCycle_imem (s : State) : (s.resetCycle).imem = s.imem := rfl
@[simp] theorem State.resetCycle_dmem (s : State) : (s.resetCycle).dmem = s.dmem := rfl
@[simp] theorem State.resetCycle_platform (s : State) : (s.resetCycle).platform = s.platform := rfl
@[simp] theorem State.resetCycle_events (s : State) : (s.resetCycle).events = s.events := rfl
@[simp] theorem State.resetCycle_draws (s : State) : (s.resetCycle).draws = s.draws := rfl
@[simp] theorem State.resetCycle_stepping (s : State) : (s.resetCycle).stepping = s.stepping := rfl
@[simp] theorem State.resetCycle_ir (s : State) : (s.resetCycle).ir = 0 := rfl
@[simp] theorem State.resetCycle_prior (s : State) : (s.resetCycle).prior = none := rfl
@[simp] theorem State.resetCycle_stale (s : State) : (s.resetCycle).stale = [] := rfl
@[simp] theorem State.resetCycle_choices (s : State) : (s.resetCycle).choices = s.choices := rfl

-- State.withFetchWord
@[simp] theorem State.withFetchWord_regs (s : State) (nbits w : Nat) : (s.withFetchWord nbits w).regs = s.regs := rfl
@[simp] theorem State.withFetchWord_flags (s : State) (nbits w : Nat) :
    (s.withFetchWord nbits w).flags = s.flags := rfl
@[simp] theorem State.withFetchWord_pc (s : State) (nbits w : Nat) : (s.withFetchWord nbits w).pc = s.pc := rfl
@[simp] theorem State.withFetchWord_ifid (s : State) (nbits w : Nat) : (s.withFetchWord nbits w).ifid = .bubble := rfl
@[simp] theorem State.withFetchWord_idex (s : State) (nbits w : Nat) : (s.withFetchWord nbits w).idex = .bubble := rfl
@[simp] theorem State.withFetchWord_exmem (s : State) (nbits w : Nat) :
    (s.withFetchWord nbits w).exmem = .bubble := rfl
@[simp] theorem State.withFetchWord_memwb (s : State) (nbits w : Nat) :
    (s.withFetchWord nbits w).memwb = .bubble := rfl
@[simp] theorem State.withFetchWord_halted (s : State) (nbits w : Nat) :
    (s.withFetchWord nbits w).halted = false := rfl
@[simp] theorem State.withFetchWord_faulted (s : State) (nbits w : Nat) :
    (s.withFetchWord nbits w).faulted = none := rfl
@[simp] theorem State.withFetchWord_rst (s : State) (nbits w : Nat) : (s.withFetchWord nbits w).rst = false := rfl
@[simp] theorem State.withFetchWord_ready (s : State) (nbits w : Nat) : (s.withFetchWord nbits w).ready = false := rfl
@[simp] theorem State.withFetchWord_cycles (s : State) (nbits w : Nat) :
    (s.withFetchWord nbits w).cycles = s.cycles := rfl
@[simp] theorem State.withFetchWord_retired (s : State) (nbits w : Nat) :
    (s.withFetchWord nbits w).retired = s.retired := rfl
@[simp] theorem State.withFetchWord_imem (s : State) (nbits w : Nat) :
    (s.withFetchWord nbits w).imem = Memory.writeWord s.imem s.pc (BitVec.ofNat 16 (w % 2 ^ nbits)) := rfl
@[simp] theorem State.withFetchWord_dmem (s : State) (nbits w : Nat) : (s.withFetchWord nbits w).dmem = s.dmem := rfl
@[simp] theorem State.withFetchWord_platform (s : State) (nbits w : Nat) :
    (s.withFetchWord nbits w).platform = s.platform := rfl
@[simp] theorem State.withFetchWord_events (s : State) (nbits w : Nat) :
    (s.withFetchWord nbits w).events = s.events := rfl
@[simp] theorem State.withFetchWord_draws (s : State) (nbits w : Nat) :
    (s.withFetchWord nbits w).draws = s.draws := rfl
@[simp] theorem State.withFetchWord_stepping (s : State) (nbits w : Nat) :
    (s.withFetchWord nbits w).stepping = .instruction := rfl
@[simp] theorem State.withFetchWord_ir (s : State) (nbits w : Nat) : (s.withFetchWord nbits w).ir = s.ir := rfl
@[simp] theorem State.withFetchWord_prior (s : State) (nbits w : Nat) :
    (s.withFetchWord nbits w).prior = s.prior := rfl
@[simp] theorem State.withFetchWord_stale (s : State) (nbits w : Nat) : (s.withFetchWord nbits w).stale = [] := rfl
@[simp] theorem State.withFetchWord_choices (s : State) (nbits w : Nat) :
    (s.withFetchWord nbits w).choices = s.choices := rfl

end Sys2Proof.Machine
end

