-- ==== Sys2Proof/Laws/Memory.lean ====
section
/-! SUPPORT. Memory and register values: what a byte, a word and a register read after a write, and that every write keeps the
canonical form. -/
namespace Sys2Proof

/-- The low part of a concatenation. -/
theorem extract_append_low {n m : Nat} (h : BitVec n) (l : BitVec m) : (h ++ l).extractLsb' 0 m = l := by
  ext i hi; simp [BitVec.getLsbD_append, hi]

/-- The high part of a concatenation. -/
theorem extract_append_high {n m : Nat} (h : BitVec n) (l : BitVec m) : (h ++ l).extractLsb' m n = h := by
  ext i hi; simp [BitVec.getLsbD_append, hi]

@[simp] theorem RegVal.word?_ofWord (w : Word) : (RegVal.ofWord w).word? = some w := by
  simp only [RegVal.word?, RegVal.ofWord, Option.some.injEq]
  ext i hi
  simp only [BitVec.getElem_append, BitVec.getElem_extractLsb']
  split
  · simp [BitVec.getElem_eq_testBit_toNat, BitVec.getLsbD]
  · rw [Nat.add_sub_of_le (by omega)]; simp [BitVec.getElem_eq_testBit_toNat, BitVec.getLsbD]

/-- A value with a word is that word's value: both its bytes are defined. -/
theorem RegVal.eq_ofWord_of_word? {v : RegVal} {w : Word} (h : v.word? = some w) : v = .ofWord w := by
  rcases v with ⟨_ | hi, _ | lo⟩ <;> simp only [RegVal.word?, reduceCtorEq, Option.some.injEq] at h
  subst h
  have hlo : (hi ++ lo).extractLsb' 0 8 = lo := extract_append_low hi lo
  have hhi : (hi ++ lo).extractLsb' 8 8 = hi := extract_append_high hi lo
  simp [RegVal.ofWord, hlo, hhi]

@[simp] theorem RegVal.word?_undef : RegVal.undef.word? = none := rfl

@[simp] theorem RegVal.word?_ofOption (o : Option Word) : (RegVal.ofOption o).word? = o := by
  cases o <;> simp [RegVal.ofOption]

theorem RegVal.ofWord_inj {a b : Word} (h : RegVal.ofWord a = .ofWord b) : a = b := by
  have := congrArg RegVal.word? h
  simpa using this

namespace Machine

/-- A byte after a byte was written. -/
theorem Memory.readByte_writeByte (m : Memory) (k j : Nat) (b : Byte) :
    Memory.readByte (Memory.writeByte m k b) j = if k = j then some b else Memory.readByte m j := by
  induction m with
  | nil => simp [Memory.writeByte, Memory.readByte]
  | cons c rest ih =>
    obtain ⟨a, x⟩ := c
    simp only [Memory.writeByte]
    split
    · simp [Memory.readByte]
    · split
      · next h => subst h; simp only [Memory.readByte]; split <;> rfl
      · next h =>
        simp only [Memory.readByte, ih]
        split
        · next h' => subst h'; rw [if_neg h]
        · rfl

/-- A byte after a word was written. -/
theorem Memory.readByte_writeWord (m : Memory) (a w : Word) (j : Nat) :
    Memory.readByte (Memory.writeWord m a w) j =
      if j = 2 * a.toNat then some (w.extractLsb' 0 8)
      else if j = 2 * a.toNat + 1 then some (w.extractLsb' 8 8)
      else Memory.readByte m j := by
  simp only [Memory.writeWord, Memory.readByte_writeByte, eq_comm (b := j)]
  split
  · next h => subst h; rw [if_neg (by omega)]
  · rfl

/-- A byte outside the two cells of the word written is unchanged. -/
theorem Memory.readByte_writeWord_other (m : Memory) (a w : Word) (j : Nat) (h : j / 2 ≠ a.toNat) :
    Memory.readByte (Memory.writeWord m a w) j = Memory.readByte m j := by
  rw [Memory.readByte_writeWord, if_neg (by omega), if_neg (by omega)]

/-- Where the first cell of a written list stands: at the written address, or where it was. -/
theorem Memory.head_writeByte (m : Memory) (k : Nat) (b : Byte) (lo : Nat)
    (hk : lo < k) (h : ∀ x ∈ m, lo < x.1) : ∀ x ∈ Memory.writeByte m k b, lo < x.1 := by
  induction m with
  | nil => simpa [Memory.writeByte] using hk
  | cons c rest ih =>
    obtain ⟨a, y⟩ := c
    simp only [List.forall_mem_cons] at h
    simp only [Memory.writeByte]
    split
    · simpa [hk, h.1] using h.2
    · split
      · simpa [hk] using h.2
      · simpa [h.1] using ih h.2

/-- Every cell of a written list is below a bound that bounds the old cells and the new one. -/
theorem Memory.bound_writeByte (m : Memory) (k : Nat) (b : Byte) (hi : Nat)
    (hk : k < hi) (h : ∀ x ∈ m, x.1 < hi) : ∀ x ∈ Memory.writeByte m k b, x.1 < hi := by
  induction m with
  | nil => simpa [Memory.writeByte] using hk
  | cons c rest ih =>
    obtain ⟨a, y⟩ := c
    simp only [List.forall_mem_cons] at h
    simp only [Memory.writeByte]
    split
    · simpa [hk, h.1] using h.2
    · split
      · simpa [hk] using h.2
      · simpa [h.1] using ih h.2

/-- A byte write keeps the addresses strictly rising. -/
theorem Memory.rising_writeByte (m : Memory) (k : Nat) (b : Byte)
    (h : m.Pairwise (fun x y => x.1 < y.1)) :
    (Memory.writeByte m k b).Pairwise (fun x y => x.1 < y.1) := by
  induction m with
  | nil => simp [Memory.writeByte]
  | cons c rest ih =>
    obtain ⟨a, y⟩ := c
    rw [List.pairwise_cons] at h
    simp only [Memory.writeByte]
    split
    · next hlt =>
      rw [List.pairwise_cons, List.pairwise_cons]
      refine ⟨?_, h⟩
      simp only [List.forall_mem_cons]
      exact ⟨hlt, fun x hx => lt_trans hlt (h.1 x hx)⟩
    · split
      · next he => subst he; exact List.pairwise_cons.mpr h
      · next h1 h2 =>
        exact List.pairwise_cons.mpr
          ⟨Memory.head_writeByte rest k b a (by omega) h.1, ih h.2⟩

/-- A byte write inside the memory keeps the canonical form. -/
theorem Memory.wf_writeByte {m : Memory} (k : Nat) (b : Byte) (hk : k < 131072) (h : Memory.wf m) :
    Memory.wf (Memory.writeByte m k b) :=
  ⟨Memory.rising_writeByte m k b h.1, Memory.bound_writeByte m k b _ hk h.2⟩

/-- A word write keeps the canonical form. -/
theorem Memory.wf_writeWord {m : Memory} (a w : Word) (h : Memory.wf m) :
    Memory.wf (Memory.writeWord m a w) := by
  have := a.isLt
  exact Memory.wf_writeByte _ _ (by omega) (Memory.wf_writeByte _ _ (by omega) h)

/-- The memory of the reset state, which lists nothing, is in canonical form. -/
theorem Memory.wf_nil : Memory.wf [] := ⟨List.Pairwise.nil, by simp⟩

/-- Reading register `i` after register `j` was written. -/
theorem regOf_setRegOf (r : Vector RegVal 8) (i j : RegSel) (v : RegVal) :
    regOf (setRegOf r j v) i = if i = j then v else regOf r i := by
  simp only [regOf, setRegOf, Vector.getElem_set, BitVec.toNat_inj, eq_comm (a := j)]

@[simp] theorem regOf_setRegOf_same (r : Vector RegVal 8) (i : RegSel) (v : RegVal) :
    regOf (setRegOf r i v) i = v := by simp [regOf_setRegOf]

/-- Two register files that agree on every register are one. -/
theorem regs_ext {r r' : Vector RegVal 8} (h : ∀ i, regOf r i = regOf r' i) : r = r' := by
  ext1 k hk
  have := h (BitVec.ofNat 3 k)
  simpa [regOf, Nat.mod_eq_of_lt hk] using this

/-- A register is read from the register file. -/
theorem State.reg_eq (s : State) (i : RegSel) : s.reg i = regOf s.regs i := rfl

@[simp] theorem State.reg_setReg (s : State) (i j : RegSel) (v : RegVal) :
    (s.setReg j v).reg i = if i = j then v else s.reg i := regOf_setRegOf _ _ _ _

@[simp] theorem State.reg_setFlags (s : State) (f : Flags) (i : RegSel) : (s.setFlags f).reg i = s.reg i := rfl

@[simp] theorem State.reg_retire (s : State) (w : Option (RegSel × RegVal)) (i : RegSel) :
    (s.retire w).reg i = s.reg i := rfl

@[simp] theorem State.reg_commit (s : State) (rd i : RegSel) (v : RegVal) :
    (s.commit rd v).reg i = if i = rd then v else s.reg i := regOf_setRegOf _ _ _ _

@[simp] theorem State.reg_commitAlu (s : State) (rd i : RegSel) (o : AluOut) :
    (s.commitAlu rd o).reg i = if i = rd then .ofWord o.y else s.reg i := regOf_setRegOf _ _ _ _

@[simp] theorem State.reg_commitFlags (s : State) (o : AluOut) (i : RegSel) :
    (s.commitFlags o).reg i = s.reg i := rfl

@[simp] theorem State.reg_jumpTo (s : State) (t : Word) (i : RegSel) : (s.jumpTo t).reg i = s.reg i := rfl

@[simp] theorem State.reg_skip (s : State) (i : RegSel) : s.skip.reg i = s.reg i := rfl

@[simp] theorem State.reg_beginInstr (s : State) (w : Word) (i : RegSel) :
    (s.beginInstr w).reg i = s.reg i := rfl

end Machine
end Sys2Proof
end

