-- ==== Sys2Proof/Laws/Ops.lean ====
section
/-! SUPPORT. What the shared operations can do, said once: reading operands, loading, storing, halting, branching. -/
namespace Sys2Proof.Machine

-- State.afterLoad
@[simp] theorem State.afterLoad_regs (s : State) (e : Word) : (s.afterLoad e).regs = s.regs := by
  unfold State.afterLoad; split <;> rfl

@[simp] theorem State.afterLoad_flags (s : State) (e : Word) : (s.afterLoad e).flags = s.flags := by
  unfold State.afterLoad; split <;> rfl

@[simp] theorem State.afterLoad_pc (s : State) (e : Word) : (s.afterLoad e).pc = s.pc := by
  unfold State.afterLoad; split <;> rfl

@[simp] theorem State.afterLoad_ifid (s : State) (e : Word) : (s.afterLoad e).ifid = s.ifid := by
  unfold State.afterLoad; split <;> rfl

@[simp] theorem State.afterLoad_idex (s : State) (e : Word) : (s.afterLoad e).idex = s.idex := by
  unfold State.afterLoad; split <;> rfl

@[simp] theorem State.afterLoad_exmem (s : State) (e : Word) : (s.afterLoad e).exmem = s.exmem := by
  unfold State.afterLoad; split <;> rfl

@[simp] theorem State.afterLoad_memwb (s : State) (e : Word) : (s.afterLoad e).memwb = s.memwb := by
  unfold State.afterLoad; split <;> rfl

@[simp] theorem State.afterLoad_halted (s : State) (e : Word) : (s.afterLoad e).halted = s.halted := by
  unfold State.afterLoad; split <;> rfl

@[simp] theorem State.afterLoad_faulted (s : State) (e : Word) : (s.afterLoad e).faulted = s.faulted := by
  unfold State.afterLoad; split <;> rfl

@[simp] theorem State.afterLoad_rst (s : State) (e : Word) : (s.afterLoad e).rst = s.rst := by
  unfold State.afterLoad; split <;> rfl

@[simp] theorem State.afterLoad_ready (s : State) (e : Word) : (s.afterLoad e).ready = s.ready := by
  unfold State.afterLoad; split <;> rfl

@[simp] theorem State.afterLoad_cycles (s : State) (e : Word) : (s.afterLoad e).cycles = s.cycles := by
  unfold State.afterLoad; split <;> rfl

@[simp] theorem State.afterLoad_retired (s : State) (e : Word) : (s.afterLoad e).retired = s.retired := by
  unfold State.afterLoad; split <;> rfl

@[simp] theorem State.afterLoad_imem (s : State) (e : Word) : (s.afterLoad e).imem = s.imem := by
  unfold State.afterLoad; split <;> rfl

@[simp] theorem State.afterLoad_dmem (s : State) (e : Word) : (s.afterLoad e).dmem = s.dmem := by
  unfold State.afterLoad; split <;> rfl

@[simp] theorem State.afterLoad_platform (s : State) (e : Word) : (s.afterLoad e).platform = s.platform := by
  unfold State.afterLoad; split <;> rfl

@[simp] theorem State.afterLoad_events (s : State) (e : Word) : (s.afterLoad e).events = s.events := by
  unfold State.afterLoad; split <;> rfl

@[simp] theorem State.afterLoad_stepping (s : State) (e : Word) : (s.afterLoad e).stepping = s.stepping := by
  unfold State.afterLoad; split <;> rfl

@[simp] theorem State.afterLoad_ir (s : State) (e : Word) : (s.afterLoad e).ir = s.ir := by
  unfold State.afterLoad; split <;> rfl

@[simp] theorem State.afterLoad_prior (s : State) (e : Word) : (s.afterLoad e).prior = s.prior := by
  unfold State.afterLoad; split <;> rfl

@[simp] theorem State.afterLoad_stale (s : State) (e : Word) : (s.afterLoad e).stale = s.stale := by
  unfold State.afterLoad; split <;> rfl

@[simp] theorem State.afterLoad_choices (s : State) (e : Word) : (s.afterLoad e).choices = s.choices := by
  unfold State.afterLoad; split <;> rfl

-- State.storeWord
@[simp] theorem State.storeWord_regs (s : State) (e v : Word) : (s.storeWord e v).regs = s.regs := by
  unfold State.storeWord; split <;> [rfl; (split <;> rfl)]

@[simp] theorem State.storeWord_flags (s : State) (e v : Word) : (s.storeWord e v).flags = s.flags := by
  unfold State.storeWord; split <;> [rfl; (split <;> rfl)]

@[simp] theorem State.storeWord_pc (s : State) (e v : Word) : (s.storeWord e v).pc = s.pc := by
  unfold State.storeWord; split <;> [rfl; (split <;> rfl)]

@[simp] theorem State.storeWord_ifid (s : State) (e v : Word) : (s.storeWord e v).ifid = s.ifid := by
  unfold State.storeWord; split <;> [rfl; (split <;> rfl)]

@[simp] theorem State.storeWord_idex (s : State) (e v : Word) : (s.storeWord e v).idex = s.idex := by
  unfold State.storeWord; split <;> [rfl; (split <;> rfl)]

@[simp] theorem State.storeWord_exmem (s : State) (e v : Word) : (s.storeWord e v).exmem = s.exmem := by
  unfold State.storeWord; split <;> [rfl; (split <;> rfl)]

@[simp] theorem State.storeWord_memwb (s : State) (e v : Word) : (s.storeWord e v).memwb = s.memwb := by
  unfold State.storeWord; split <;> [rfl; (split <;> rfl)]

@[simp] theorem State.storeWord_halted (s : State) (e v : Word) : (s.storeWord e v).halted = s.halted := by
  unfold State.storeWord; split <;> [rfl; (split <;> rfl)]

@[simp] theorem State.storeWord_faulted (s : State) (e v : Word) : (s.storeWord e v).faulted = s.faulted := by
  unfold State.storeWord; split <;> [rfl; (split <;> rfl)]

@[simp] theorem State.storeWord_rst (s : State) (e v : Word) : (s.storeWord e v).rst = s.rst := by
  unfold State.storeWord; split <;> [rfl; (split <;> rfl)]

@[simp] theorem State.storeWord_ready (s : State) (e v : Word) : (s.storeWord e v).ready = s.ready := by
  unfold State.storeWord; split <;> [rfl; (split <;> rfl)]

@[simp] theorem State.storeWord_cycles (s : State) (e v : Word) : (s.storeWord e v).cycles = s.cycles := by
  unfold State.storeWord; split <;> [rfl; (split <;> rfl)]

@[simp] theorem State.storeWord_retired (s : State) (e v : Word) : (s.storeWord e v).retired = s.retired := by
  unfold State.storeWord; split <;> [rfl; (split <;> rfl)]

@[simp] theorem State.storeWord_platform (s : State) (e v : Word) : (s.storeWord e v).platform = s.platform := by
  unfold State.storeWord; split <;> [rfl; (split <;> rfl)]

@[simp] theorem State.storeWord_draws (s : State) (e v : Word) : (s.storeWord e v).draws = s.draws := by
  unfold State.storeWord; split <;> [rfl; (split <;> rfl)]

@[simp] theorem State.storeWord_stepping (s : State) (e v : Word) : (s.storeWord e v).stepping = s.stepping := by
  unfold State.storeWord; split <;> [rfl; (split <;> rfl)]

@[simp] theorem State.storeWord_ir (s : State) (e v : Word) : (s.storeWord e v).ir = s.ir := by
  unfold State.storeWord; split <;> [rfl; (split <;> rfl)]

@[simp] theorem State.storeWord_prior (s : State) (e v : Word) : (s.storeWord e v).prior = s.prior := by
  unfold State.storeWord; split <;> [rfl; (split <;> rfl)]

@[simp] theorem State.storeWord_stale (s : State) (e v : Word) : (s.storeWord e v).stale = s.stale := by
  unfold State.storeWord; split <;> [rfl; (split <;> rfl)]

@[simp] theorem State.storeWord_choices (s : State) (e v : Word) : (s.storeWord e v).choices = s.choices := by
  unfold State.storeWord; split <;> [rfl; (split <;> rfl)]

-- State.noteStale
@[simp] theorem State.noteStale_regs (s : State) (e : Word) : (s.noteStale e).regs = s.regs := by
  unfold State.noteStale; split <;> rfl

@[simp] theorem State.noteStale_flags (s : State) (e : Word) : (s.noteStale e).flags = s.flags := by
  unfold State.noteStale; split <;> rfl

@[simp] theorem State.noteStale_pc (s : State) (e : Word) : (s.noteStale e).pc = s.pc := by
  unfold State.noteStale; split <;> rfl

@[simp] theorem State.noteStale_ifid (s : State) (e : Word) : (s.noteStale e).ifid = s.ifid := by
  unfold State.noteStale; split <;> rfl

@[simp] theorem State.noteStale_idex (s : State) (e : Word) : (s.noteStale e).idex = s.idex := by
  unfold State.noteStale; split <;> rfl

@[simp] theorem State.noteStale_exmem (s : State) (e : Word) : (s.noteStale e).exmem = s.exmem := by
  unfold State.noteStale; split <;> rfl

@[simp] theorem State.noteStale_memwb (s : State) (e : Word) : (s.noteStale e).memwb = s.memwb := by
  unfold State.noteStale; split <;> rfl

@[simp] theorem State.noteStale_halted (s : State) (e : Word) : (s.noteStale e).halted = s.halted := by
  unfold State.noteStale; split <;> rfl

@[simp] theorem State.noteStale_faulted (s : State) (e : Word) : (s.noteStale e).faulted = s.faulted := by
  unfold State.noteStale; split <;> rfl

@[simp] theorem State.noteStale_rst (s : State) (e : Word) : (s.noteStale e).rst = s.rst := by
  unfold State.noteStale; split <;> rfl

@[simp] theorem State.noteStale_ready (s : State) (e : Word) : (s.noteStale e).ready = s.ready := by
  unfold State.noteStale; split <;> rfl

@[simp] theorem State.noteStale_cycles (s : State) (e : Word) : (s.noteStale e).cycles = s.cycles := by
  unfold State.noteStale; split <;> rfl

@[simp] theorem State.noteStale_retired (s : State) (e : Word) : (s.noteStale e).retired = s.retired := by
  unfold State.noteStale; split <;> rfl

@[simp] theorem State.noteStale_imem (s : State) (e : Word) : (s.noteStale e).imem = s.imem := by
  unfold State.noteStale; split <;> rfl

@[simp] theorem State.noteStale_dmem (s : State) (e : Word) : (s.noteStale e).dmem = s.dmem := by
  unfold State.noteStale; split <;> rfl

@[simp] theorem State.noteStale_platform (s : State) (e : Word) : (s.noteStale e).platform = s.platform := by
  unfold State.noteStale; split <;> rfl

@[simp] theorem State.noteStale_events (s : State) (e : Word) : (s.noteStale e).events = s.events := by
  unfold State.noteStale; split <;> rfl

@[simp] theorem State.noteStale_draws (s : State) (e : Word) : (s.noteStale e).draws = s.draws := by
  unfold State.noteStale; split <;> rfl

@[simp] theorem State.noteStale_stepping (s : State) (e : Word) : (s.noteStale e).stepping = s.stepping := by
  unfold State.noteStale; split <;> rfl

@[simp] theorem State.noteStale_ir (s : State) (e : Word) : (s.noteStale e).ir = s.ir := by
  unfold State.noteStale; split <;> rfl

@[simp] theorem State.noteStale_prior (s : State) (e : Word) : (s.noteStale e).prior = s.prior := by
  unfold State.noteStale; split <;> rfl

@[simp] theorem State.noteStale_choices (s : State) (e : Word) : (s.noteStale e).choices = s.choices := by
  unfold State.noteStale; split <;> rfl

-- State.haltHedge
@[simp] theorem State.haltHedge_flags (s : State) : (s.haltHedge).flags = s.flags := by
  unfold State.haltHedge; split <;> [rfl; (dsimp only; split <;> [rfl; (split <;> rfl)])]

@[simp] theorem State.haltHedge_pc (s : State) : (s.haltHedge).pc = s.pc := by
  unfold State.haltHedge; split <;> [rfl; (dsimp only; split <;> [rfl; (split <;> rfl)])]

@[simp] theorem State.haltHedge_ifid (s : State) : (s.haltHedge).ifid = s.ifid := by
  unfold State.haltHedge; split <;> [rfl; (dsimp only; split <;> [rfl; (split <;> rfl)])]

@[simp] theorem State.haltHedge_idex (s : State) : (s.haltHedge).idex = s.idex := by
  unfold State.haltHedge; split <;> [rfl; (dsimp only; split <;> [rfl; (split <;> rfl)])]

@[simp] theorem State.haltHedge_exmem (s : State) : (s.haltHedge).exmem = s.exmem := by
  unfold State.haltHedge; split <;> [rfl; (dsimp only; split <;> [rfl; (split <;> rfl)])]

@[simp] theorem State.haltHedge_memwb (s : State) : (s.haltHedge).memwb = s.memwb := by
  unfold State.haltHedge; split <;> [rfl; (dsimp only; split <;> [rfl; (split <;> rfl)])]

@[simp] theorem State.haltHedge_halted (s : State) : (s.haltHedge).halted = s.halted := by
  unfold State.haltHedge; split <;> [rfl; (dsimp only; split <;> [rfl; (split <;> rfl)])]

@[simp] theorem State.haltHedge_faulted (s : State) : (s.haltHedge).faulted = s.faulted := by
  unfold State.haltHedge; split <;> [rfl; (dsimp only; split <;> [rfl; (split <;> rfl)])]

@[simp] theorem State.haltHedge_rst (s : State) : (s.haltHedge).rst = s.rst := by
  unfold State.haltHedge; split <;> [rfl; (dsimp only; split <;> [rfl; (split <;> rfl)])]

@[simp] theorem State.haltHedge_ready (s : State) : (s.haltHedge).ready = s.ready := by
  unfold State.haltHedge; split <;> [rfl; (dsimp only; split <;> [rfl; (split <;> rfl)])]

@[simp] theorem State.haltHedge_cycles (s : State) : (s.haltHedge).cycles = s.cycles := by
  unfold State.haltHedge; split <;> [rfl; (dsimp only; split <;> [rfl; (split <;> rfl)])]

@[simp] theorem State.haltHedge_imem (s : State) : (s.haltHedge).imem = s.imem := by
  unfold State.haltHedge; split <;> [rfl; (dsimp only; split <;> [rfl; (split <;> rfl)])]

@[simp] theorem State.haltHedge_dmem (s : State) : (s.haltHedge).dmem = s.dmem := by
  unfold State.haltHedge; split <;> [rfl; (dsimp only; split <;> [rfl; (split <;> rfl)])]

@[simp] theorem State.haltHedge_platform (s : State) : (s.haltHedge).platform = s.platform := by
  unfold State.haltHedge; split <;> [rfl; (dsimp only; split <;> [rfl; (split <;> rfl)])]

@[simp] theorem State.haltHedge_events (s : State) : (s.haltHedge).events = s.events := by
  unfold State.haltHedge; split <;> [rfl; (dsimp only; split <;> [rfl; (split <;> rfl)])]

@[simp] theorem State.haltHedge_draws (s : State) : (s.haltHedge).draws = s.draws := by
  unfold State.haltHedge; split <;> [rfl; (dsimp only; split <;> [rfl; (split <;> rfl)])]

@[simp] theorem State.haltHedge_stepping (s : State) : (s.haltHedge).stepping = s.stepping := by
  unfold State.haltHedge; split <;> [rfl; (dsimp only; split <;> [rfl; (split <;> rfl)])]

@[simp] theorem State.haltHedge_ir (s : State) : (s.haltHedge).ir = s.ir := by
  unfold State.haltHedge; split <;> [rfl; (dsimp only; split <;> [rfl; (split <;> rfl)])]

@[simp] theorem State.haltHedge_prior (s : State) : (s.haltHedge).prior = s.prior := by
  unfold State.haltHedge; split <;> [rfl; (dsimp only; split <;> [rfl; (split <;> rfl)])]

@[simp] theorem State.haltHedge_stale (s : State) : (s.haltHedge).stale = s.stale := by
  unfold State.haltHedge; split <;> [rfl; (dsimp only; split <;> [rfl; (split <;> rfl)])]

-- State.halt
@[simp] theorem State.halt_flags (s : State) : (s.halt).flags = s.flags := by
  simp [State.halt]

@[simp] theorem State.halt_ifid (s : State) : (s.halt).ifid = s.ifid := by
  simp [State.halt]

@[simp] theorem State.halt_idex (s : State) : (s.halt).idex = s.idex := by
  simp [State.halt]

@[simp] theorem State.halt_exmem (s : State) : (s.halt).exmem = s.exmem := by
  simp [State.halt]

@[simp] theorem State.halt_memwb (s : State) : (s.halt).memwb = s.memwb := by
  simp [State.halt]

@[simp] theorem State.halt_faulted (s : State) : (s.halt).faulted = s.faulted := by
  simp [State.halt]

@[simp] theorem State.halt_rst (s : State) : (s.halt).rst = s.rst := by
  simp [State.halt]

@[simp] theorem State.halt_ready (s : State) : (s.halt).ready = s.ready := by
  simp [State.halt]

@[simp] theorem State.halt_cycles (s : State) : (s.halt).cycles = s.cycles := by
  simp [State.halt]

@[simp] theorem State.halt_imem (s : State) : (s.halt).imem = s.imem := by
  simp [State.halt]

@[simp] theorem State.halt_dmem (s : State) : (s.halt).dmem = s.dmem := by
  simp [State.halt]

@[simp] theorem State.halt_platform (s : State) : (s.halt).platform = s.platform := by
  simp [State.halt]

@[simp] theorem State.halt_events (s : State) : (s.halt).events = s.events := by
  simp [State.halt]

@[simp] theorem State.halt_draws (s : State) : (s.halt).draws = s.draws := by
  simp [State.halt]

@[simp] theorem State.halt_stepping (s : State) : (s.halt).stepping = s.stepping := by
  simp [State.halt]

@[simp] theorem State.halt_ir (s : State) : (s.halt).ir = s.ir := by
  simp [State.halt]

@[simp] theorem State.halt_stale (s : State) : (s.halt).stale = s.stale := by
  simp [State.halt]

@[simp] theorem State.reg_afterLoad (s : State) (e : Word) (i : RegSel) :
    (s.afterLoad e).reg i = s.reg i := by simp [State.reg_eq]

@[simp] theorem State.reg_storeWord (s : State) (e v : Word) (i : RegSel) :
    (s.storeWord e v).reg i = s.reg i := by simp [State.reg_eq]

@[simp] theorem State.reg_noteStale (s : State) (e : Word) (i : RegSel) :
    (s.noteStale e).reg i = s.reg i := by simp [State.reg_eq]

@[simp] theorem State.halt_halted (s : State) : s.halt.halted = true := rfl

@[simp] theorem State.halt_prior (s : State) : s.halt.prior = none := rfl

@[simp] theorem State.halt_pc (s : State) : s.halt.pc = s.pc + 1 := rfl

/-- Nothing just retired: the halt hedge is vacuous (R144). -/
theorem State.haltHedge_of_no_prior {s : State} (h : s.prior = none) : s.haltHedge = s := by
  simp [State.haltHedge, h]

/-- The halt hedge leaves every register but the one just written, and gives that one its value before or leaves it
(R115). -/
theorem State.reg_haltHedge (s : State) (i : RegSel) :
    s.haltHedge.reg i = s.reg i ∨
      ∃ old, s.prior = some ⟨some (i, old)⟩ ∧ s.haltHedge.reg i = old := by
  unfold State.haltHedge
  split
  · exact .inl rfl
  · next p hp =>
    dsimp only
    split
    · exact .inl rfl
    · split
      · exact .inl rfl
      · next rd old hw =>
        by_cases h : i = rd
        · subst h
          exact .inr ⟨old, by rw [hp, ← hw], regOf_setRegOf_same _ _ _⟩
        · exact .inl (by
            show regOf (setRegOf s.regs rd old) i = regOf s.regs i
            rw [regOf_setRegOf, if_neg h])

/-- An operand that is defined is used. -/
theorem State.useReg_of_word {s : State} {i : RegSel} {w : Word} (h : (s.reg i).word? = some w)
    (k : Word → Result) : s.useReg i k = k w := by simp [State.useReg, h]

/-- An operand that is undefined faults. -/
theorem State.useReg_of_none {s : State} {i : RegSel} (h : (s.reg i).word? = none)
    (k : Word → Result) : s.useReg i k = .fault (.undefinedRegister i s.site) := by
  simp [State.useReg, h]

/-- What using an operand can answer with a next state. -/
theorem State.useReg_next {s t : State} {i : RegSel} {k : Word → Result} :
    s.useReg i k = .next t ↔ ∃ w, (s.reg i).word? = some w ∧ k w = .next t := by
  unfold State.useReg
  split <;> simp_all

/-- A flag that is defined is used. -/
theorem State.useFlag_of_some {s : State} {f : Option Bool} {b : Bool} (h : f = some b)
    (k : Bool → Result) : s.useFlag f k = k b := by simp [State.useFlag, h]

/-- A flag that is undefined faults. -/
theorem State.useFlag_of_none {s : State} {f : Option Bool} (h : f = none)
    (k : Bool → Result) : s.useFlag f k = .fault (.undefinedFlags s.site) := by
  simp [State.useFlag, h]

/-- What using a flag can answer with a next state. -/
theorem State.useFlag_next {s t : State} {f : Option Bool} {k : Bool → Result} :
    s.useFlag f k = .next t ↔ ∃ b, f = some b ∧ k b = .next t := by
  unfold State.useFlag
  split <;> simp_all

/-- What using two operands can answer with a next state. -/
theorem State.useRegs_next {s t : State} {ra rb : RegSel} {k : Word → Word → Result} :
    s.useRegs ra rb k = .next t ↔
      ∃ a b, (s.reg ra).word? = some a ∧ (s.reg rb).word? = some b ∧ k a b = .next t := by
  simp [State.useRegs, State.useReg_next]

/-- What a branch can answer with a next state. -/
theorem State.branch_next {s t : State} {c : Option Bool} {imm : BitVec 11} :
    s.branch c imm = .next t ↔
      (c = some true ∧ t = s.jumpTo (relativeTarget s.pc imm)) ∨
        (c = some false ∧ t = s.retire none) := by
  rw [State.branch, State.useFlag_next]
  constructor
  · rintro ⟨b, rfl, h⟩
    cases b <;> simp_all
  · rintro (⟨rfl, rfl⟩ | ⟨rfl, rfl⟩)
    · exact ⟨true, rfl, rfl⟩
    · exact ⟨false, rfl, rfl⟩

/-- Where a store goes: the three cases of R133. -/
theorem State.storeWord_cases (s : State) (e v : Word) :
    (∃ a, s.platform.aliasOf e = some a ∧
      (s.storeWord e v).imem = Memory.writeWord s.imem a v ∧
      (s.storeWord e v).dmem =
        (if s.platform.aliasWritesData then Memory.writeWord s.dmem e v else s.dmem) ∧
      (s.storeWord e v).events = s.events) ∨
    (s.platform.aliasOf e = none ∧ s.platform.isDevice e = true ∧
      (s.storeWord e v).imem = s.imem ∧ (s.storeWord e v).dmem = s.dmem ∧
      (s.storeWord e v).events = s.events ++ [(e, v)]) ∨
    (s.platform.aliasOf e = none ∧ s.platform.isDevice e = false ∧
      (s.storeWord e v).imem = s.imem ∧
      (s.storeWord e v).dmem = Memory.writeWord s.dmem e v ∧
      (s.storeWord e v).events = s.events) := by
  unfold State.storeWord
  split
  · next a ha => exact .inl ⟨a, ha, rfl, rfl, rfl⟩
  · next ha =>
    split
    · next hd => exact .inr (.inl ⟨ha, hd, rfl, rfl, rfl⟩)
    · next hd => exact .inr (.inr ⟨ha, by simpa using hd, rfl, rfl, rfl⟩)

/-- A store keeps both memories in canonical form. -/
theorem State.storeWord_wf {s : State} (e v : Word) (h : MemoriesCanonical s) :
    MemoriesCanonical (s.storeWord e v) := by
  rcases State.storeWord_cases s e v with ⟨a, -, hi, hd, -⟩ | ⟨-, -, hi, hd, -⟩ | ⟨-, -, hi, hd, -⟩
  · refine ⟨hi ▸ Memory.wf_writeWord _ _ h.1, ?_⟩
    rw [hd]; split
    · exact Memory.wf_writeWord _ _ h.2
    · exact h.2
  · exact ⟨hi ▸ h.1, hd ▸ h.2⟩
  · exact ⟨hi ▸ h.1, hd ▸ Memory.wf_writeWord _ _ h.2⟩

/-- What an instruction can do to the rewritten words: keep them, forget them at a taken jump, or note one at a STORE through
IMEM_ALIAS. -/
theorem exec_stale {i : Instr} {s t : State} (h : exec i s = .next t) :
    t.stale = s.stale ∨ t.stale = [] ∨ ∃ y, NotedByStore i s y ∧ t.stale = s.stale ++ [y] := by
  cases i <;>
    simp only [exec, execNop, execHlt, execLi, execLui, execLoad, execStore, execCmp, execAdd, execSub, execAnd,
      execOr, execXor, execNot, execAdc, execSbc, execCmpi, execAddi, execSubi, execAndi, execOri, execXori, execJmp,
      execJr, execJalr, execBeq, execBne, execBlt, execBgt, execBltu, execBgtu, State.useReg_next,
      State.useFlag_next, State.useRegs_next, State.branch_next, Host.Outcome.next.injEq] at h
  case store rb ra imm =>
    obtain ⟨base, hb, v, -, rfl⟩ := h
    simp only [State.retire_stale, State.storeWord_stale, State.noteStale]
    split
    · next a ha => exact .inr (.inr ⟨_, ⟨rb, ra, imm, base, a, rfl, hb, ha, rfl⟩, rfl⟩)
    · exact .inl rfl
  all_goals
    first
    | (rcases h with ⟨-, rfl⟩ | ⟨-, rfl⟩ <;> simp)
    | (obtain ⟨_, _, rfl⟩ := h; simp)
    | (obtain ⟨_, _, _, _, rfl⟩ := h; simp)
    | (obtain ⟨_, _, _, _, _, _, rfl⟩ := h; simp)

/-- The result of the ALU's ADD is the sum modulo 2^16 (R73). -/
theorem aluAdd_y (a r : Word) (c : Bool) : (aluAdd a r c).y = a + r + BitVec.ofNat 16 c.toNat := by
  simp [aluAdd, BitVec.ofNat_add]

/-- The result of the ALU's SUB is `a + ~r + cin` modulo 2^16 (R73). -/
theorem aluSub_y (a r : Word) (c : Bool) : (aluSub a r c).y = a + ~~~r + BitVec.ofNat 16 c.toNat := by
  simp only [aluSub, BitVec.ofNat_add, BitVec.ofNat_toNat, BitVec.setWidth_eq]

/-- With `cin = 1` the result of SUB is `a - r` (R73). -/
theorem aluSub_y_true (a r : Word) : (aluSub a r true).y = a - r := by
  rw [aluSub_y, BitVec.sub_eq_add_neg, BitVec.neg_eq_not_add, ← BitVec.add_assoc]
  rfl

end Sys2Proof.Machine
end

