-- ==== Sys2Proof/Laws/Cycle.lean ====
section
/-! SUPPORT. What each pipeline stage and a whole cycle can do, said once (70_reset_and_hazards.md R131 to R141). -/
namespace Sys2Proof.Machine

-- wbStage
@[simp] theorem wbStage_flags (s : State) : (wbStage s).flags = s.flags := rfl
@[simp] theorem wbStage_pc (s : State) : (wbStage s).pc = s.pc := rfl
@[simp] theorem wbStage_ifid (s : State) : (wbStage s).ifid = s.ifid := rfl
@[simp] theorem wbStage_idex (s : State) : (wbStage s).idex = s.idex := rfl
@[simp] theorem wbStage_exmem (s : State) : (wbStage s).exmem = s.exmem := rfl
@[simp] theorem wbStage_memwb (s : State) : (wbStage s).memwb = s.memwb := rfl
@[simp] theorem wbStage_halted (s : State) : (wbStage s).halted = s.halted := rfl
@[simp] theorem wbStage_faulted (s : State) : (wbStage s).faulted = s.faulted := rfl
@[simp] theorem wbStage_rst (s : State) : (wbStage s).rst = s.rst := rfl
@[simp] theorem wbStage_ready (s : State) : (wbStage s).ready = s.ready := rfl
@[simp] theorem wbStage_cycles (s : State) : (wbStage s).cycles = s.cycles := rfl
@[simp] theorem wbStage_imem (s : State) : (wbStage s).imem = s.imem := rfl
@[simp] theorem wbStage_dmem (s : State) : (wbStage s).dmem = s.dmem := rfl
@[simp] theorem wbStage_platform (s : State) : (wbStage s).platform = s.platform := rfl
@[simp] theorem wbStage_events (s : State) : (wbStage s).events = s.events := rfl
@[simp] theorem wbStage_draws (s : State) : (wbStage s).draws = s.draws := rfl
@[simp] theorem wbStage_stepping (s : State) : (wbStage s).stepping = s.stepping := rfl
@[simp] theorem wbStage_ir (s : State) : (wbStage s).ir = s.ir := rfl
@[simp] theorem wbStage_prior (s : State) : (wbStage s).prior = s.prior := rfl
@[simp] theorem wbStage_stale (s : State) : (wbStage s).stale = s.stale := rfl
@[simp] theorem wbStage_choices (s : State) : (wbStage s).choices = s.choices := rfl

-- latch
@[simp] theorem latch_regs (s : State) (m : MemOut) (x : ExOut) :
    (latch s m x).regs = m.after.regs := rfl
@[simp] theorem latch_flags (s : State) (m : MemOut) (x : ExOut) :
    (latch s m x).flags = if s.idex.ctl.fi then x.flags else s.flags := rfl
@[simp] theorem latch_pc (s : State) (m : MemOut) (x : ExOut) :
    (latch s m x).pc = (ifStage s m.after.imem x.jump).1 := rfl
@[simp] theorem latch_ifid (s : State) (m : MemOut) (x : ExOut) :
    (latch s m x).ifid = (ifStage s m.after.imem x.jump).2 := rfl
@[simp] theorem latch_idex (s : State) (m : MemOut) (x : ExOut) :
    (latch s m x).idex = idStage s m.after.regs x.fwd m.fwd x.jump.isSome := rfl
@[simp] theorem latch_exmem (s : State) (m : MemOut) (x : ExOut) :
    (latch s m x).exmem = x.exmem := rfl
@[simp] theorem latch_memwb (s : State) (m : MemOut) (x : ExOut) :
    (latch s m x).memwb = m.memwb := rfl
@[simp] theorem latch_halted (s : State) (m : MemOut) (x : ExOut) :
    (latch s m x).halted = s.idex.ctl.hlt := rfl
@[simp] theorem latch_faulted (s : State) (m : MemOut) (x : ExOut) :
    (latch s m x).faulted = m.after.faulted := rfl
@[simp] theorem latch_rst (s : State) (m : MemOut) (x : ExOut) :
    (latch s m x).rst = m.after.rst := rfl
@[simp] theorem latch_ready (s : State) (m : MemOut) (x : ExOut) :
    (latch s m x).ready = m.after.ready := rfl
@[simp] theorem latch_cycles (s : State) (m : MemOut) (x : ExOut) :
    (latch s m x).cycles = s.cycles + 1 := rfl
@[simp] theorem latch_retired (s : State) (m : MemOut) (x : ExOut) :
    (latch s m x).retired = m.after.retired := rfl
@[simp] theorem latch_imem (s : State) (m : MemOut) (x : ExOut) :
    (latch s m x).imem = m.after.imem := rfl
@[simp] theorem latch_dmem (s : State) (m : MemOut) (x : ExOut) :
    (latch s m x).dmem = m.after.dmem := rfl
@[simp] theorem latch_platform (s : State) (m : MemOut) (x : ExOut) :
    (latch s m x).platform = m.after.platform := rfl
@[simp] theorem latch_events (s : State) (m : MemOut) (x : ExOut) :
    (latch s m x).events = m.after.events := rfl
@[simp] theorem latch_draws (s : State) (m : MemOut) (x : ExOut) :
    (latch s m x).draws = m.after.draws := rfl
@[simp] theorem latch_stepping (s : State) (m : MemOut) (x : ExOut) :
    (latch s m x).stepping = m.after.stepping := rfl
@[simp] theorem latch_ir (s : State) (m : MemOut) (x : ExOut) :
    (latch s m x).ir = m.after.ir := rfl
@[simp] theorem latch_prior (s : State) (m : MemOut) (x : ExOut) :
    (latch s m x).prior = none := rfl
@[simp] theorem latch_stale (s : State) (m : MemOut) (x : ExOut) :
    (latch s m x).stale = [] := rfl
@[simp] theorem latch_choices (s : State) (m : MemOut) (x : ExOut) :
    (latch s m x).choices = m.after.choices := rfl

/-- MEM's check passes exactly on the control words that keep R69. -/
theorem memCheck_eq_none (c : ControlWord) : memCheck c = none ↔ c.sound = true := by
  unfold memCheck ControlWord.sound
  cases c.memLoad <;> cases c.assertStoreOp <;> cases c.memStore <;> simp

/-- A register after a port-C write (R19, R132). -/
theorem regOf_portC (regs : Vector RegVal 8) (c : ControlWord) (selC : Option RegSel) (v : RegVal)
    (r : RegSel) :
    regOf (portC regs c selC v) r =
      if produces c selC r then gateBytes (regOf regs r) v c.writeLo c.writeHi else regOf regs r := by
  unfold portC produces
  cases c.wben <;> rcases selC with _ | rd
  · simp
  · simp
  · simp
  · by_cases h : r = rd
    · subst h; simp
    · simp [regOf_setRegOf, h, Ne.symm h]

/-- A write of both bytes writes the whole value. -/
@[simp] theorem gateBytes_both (old v : RegVal) : gateBytes old v true true = v := rfl

/-- What MEM can do: a load, a store, or no access (R133). -/
theorem memStage_ok {s : State} {m : MemOut} (h : memStage s = .ok m) :
    s.exmem.ctl.sound = true ∧
      ((s.exmem.ctl.memLoad = true ∧
          ∃ e, s.exmem.y = some e ∧ m = memLatch s.exmem (s.afterLoad e) (s.loadValue e)) ∨
        (s.exmem.ctl.memLoad = false ∧ s.exmem.ctl.memStore = true ∧
          ∃ e v, s.exmem.y = some e ∧ s.exmem.sop.word? = some v ∧
            m = memLatch s.exmem (s.storeWord e v)
              (if s.exmem.ctl.assertStoreOp then s.exmem.sop else .undef)) ∨
        (s.exmem.ctl.memLoad = false ∧ s.exmem.ctl.memStore = false ∧
          m = memLatch s.exmem s (if s.exmem.ctl.assertStoreOp then s.exmem.sop else .undef))) := by
  unfold memStage at h
  dsimp only at h
  split at h
  · cases h
  · next hc =>
    refine ⟨(memCheck_eq_none _).mp hc, ?_⟩
    split at h
    · next hl =>
      split at h
      · next e he => exact .inl ⟨hl, e, he, by cases h; rfl⟩
      · cases h
    · next hl =>
      split at h
      · next hst =>
        split at h
        · next e v he hv =>
          exact .inr (.inl ⟨by simpa using hl, hst, e, v, he, hv, by cases h; rfl⟩)
        · cases h
      · next hst =>
        exact .inr (.inr ⟨by simpa using hl, by simpa using hst, by cases h; rfl⟩)

/-- What MEM's access leaves: everything but memories, event history and draws. -/
theorem memStage_after {s : State} {m : MemOut} (h : memStage s = .ok m) :
    m.after.regs = s.regs ∧ m.after.flags = s.flags ∧ m.after.rst = s.rst ∧ m.after.ready = s.ready ∧
      m.after.retired = s.retired ∧ m.after.platform = s.platform ∧ m.after.stepping = s.stepping ∧
      m.after.ir = s.ir ∧ m.after.choices = s.choices ∧ m.after.faulted = s.faulted := by
  rcases (memStage_ok h).2 with ⟨-, e, -, rfl⟩ | ⟨-, -, e, v, -, -, rfl⟩ | ⟨-, -, rfl⟩ <;>
    simp [memLatch]

/-- What MEM latches: the word it held, and with it the value it forwards, which is the one WB will write (R133). -/
theorem memStage_memwb {s : State} {m : MemOut} (h : memStage s = .ok m) :
    m.memwb.ctl = s.exmem.ctl ∧ m.memwb.selC = s.exmem.selC ∧ m.memwb.y = s.exmem.y ∧
      m.fwd = writeBackValue m.memwb.ctl m.memwb.y m.memwb.d := by
  rcases (memStage_ok h).2 with ⟨-, e, -, rfl⟩ | ⟨-, -, e, v, -, -, rfl⟩ | ⟨-, -, rfl⟩ <;>
    exact ⟨rfl, rfl, rfl, rfl⟩

/-- What EX can do where it raises no fault (R134). -/
theorem exStage_ok {pc : Word} {x : IdEx} {o : ExOut} (h : exStage pc x = .ok o) :
    exFault x = none ∧
      o.exmem = ⟨x.ctl,
        (alu x.ctl.aluOp x.a (rightOperand x.ctl.selRight x.b x.ins) x.ctl.cin).y,
        storeOperand x.ctl.selStore x.b x.ins x.pc, x.selC, x.pc, x.tag⟩ ∧
      o.flags = (alu x.ctl.aluOp x.a (rightOperand x.ctl.selRight x.b x.ins) x.ctl.cin).flags ∧
      o.fwd = .ofOption (alu x.ctl.aluOp x.a (rightOperand x.ctl.selRight x.b x.ins) x.ctl.cin).y ∧
      ((x.ctl.j = true ∧
          ∃ y, (alu x.ctl.aluOp x.a (rightOperand x.ctl.selRight x.b x.ins) x.ctl.cin).y = some y ∧
            o.jump = some (jumpTarget x.ctl pc y)) ∨
        (x.ctl.j = false ∧ o.jump = none)) := by
  unfold exStage at h
  split at h
  · cases h
  · next hf =>
    dsimp only at h
    split at h
    · next hj =>
      split at h
      · next y hy => cases h; exact ⟨hf, rfl, rfl, rfl, .inl ⟨hj, y, hy, rfl⟩⟩
      · cases h
    · next hj => cases h; exact ⟨hf, rfl, rfl, rfl, .inr ⟨by simpa using hj, rfl⟩⟩

/-- What a cycle can do: stop on MEM's error, stop on EX's fault, or latch (R131, R118). -/
theorem cycle_cases (s : State) :
    (∃ cause, memStage (wbStage s) = .error cause ∧
      cycle s = (wbStage s).stopWith (.internalError cause ⟨s.exmem.pc, none⟩)) ∨
    (∃ m f, memStage (wbStage s) = .ok m ∧ exStage s.pc s.idex = .error f ∧
      cycle s = m.after.stopWith f) ∨
    (∃ m x, memStage (wbStage s) = .ok m ∧ exStage s.pc s.idex = .ok x ∧ cycle s = latch s m x) := by
  unfold cycle
  dsimp only
  split
  · next cause h => exact .inl ⟨cause, h, rfl⟩
  · next m h =>
    split
    · next f hf => exact .inr (.inl ⟨m, f, h, hf, rfl⟩)
    · next x hx => exact .inr (.inr ⟨m, x, h, hx, rfl⟩)

/-- What a step can answer with a next state: a reset cycle, an instruction, or a clock cycle. -/
theorem step_next {s t : State} (h : step s = .next t) :
    (s.rst = true ∧ t = s.resetCycle) ∨
    (s.rst = false ∧ s.faulted = none ∧ s.halted = false ∧ s.ready = false ∧
      ((s.stepping = .instruction ∧ s.pipelineIdle = true ∧
          ∃ w i, s.fetchWord = some w ∧ decode w = .ok i ∧ exec i (s.beginInstr w) = .next t) ∨
        (s.stepping = .cycle ∧ t = cycle s))) := by
  unfold step State.gate at h
  by_cases hr : s.rst = true
  · simp only [hr, if_true] at h
    exact .inl ⟨hr, by injection h with h; exact h.symm⟩
  · simp only [hr] at h
    refine .inr ⟨by simpa using hr, ?_⟩
    cases hf : s.faulted with
    | some f => simp [hf] at h
    | none =>
      cases hh : s.halted with
      | true => simp [hf, hh] at h
      | false =>
        cases hy : s.ready with
        | true => simp [hf, hh, hy] at h
        | false =>
          refine ⟨rfl, rfl, rfl, ?_⟩
          cases hs : s.stepping with
          | cycle =>
            simp [hf, hh, hy, hs] at h
            exact .inr ⟨rfl, h.symm⟩
          | instruction =>
            simp [hf, hh, hy, hs] at h
            refine .inl ⟨rfl, ?_⟩
            unfold stepInstruction at h
            split at h
            · next hi =>
              refine ⟨hi, ?_⟩
              split at h
              · cases h
              · next w hw =>
                split at h
                · cases h
                · next i hd => exact ⟨w, i, hw, hd, h⟩
            · cases h

end Sys2Proof.Machine
end

