-- ==== Sys2Proof/Laws/Encode.lean ====
section
/-! SUPPORT. The fields of a packed instruction word (R54), and that the opcode map's two readings agree (R59). -/
namespace Sys2Proof

/-- A field in the high part of a concatenation. -/
theorem extract_append_above {n m : Nat} (h : BitVec n) (l : BitVec m) (s k : Nat) :
    (h ++ l).extractLsb' (m + s) k = h.extractLsb' s k := by
  ext i hi; simp [BitVec.getLsbD_append, show ¬ m + s + i < m by omega,
    show m + s + i - m = s + i by omega]

/-- A field in the low part of a concatenation. -/
theorem extract_append_below {n m : Nat} (h : BitVec n) (l : BitVec m) (s k : Nat) (hs : s + k ≤ m) :
    (h ++ l).extractLsb' s k = l.extractLsb' s k := by
  ext i hi; simp [BitVec.getLsbD_append, show s + i < m by omega]

@[simp] theorem opField_packRegs (op : BitVec 5) (c a b : RegSel) (low : BitVec 2) :
    opField (packRegs op c a b low) = op :=
  (extract_append_above (op ++ c ++ a ++ b) low 9 5).trans <|
    (extract_append_above (op ++ c ++ a) b 6 5).trans <|
      (extract_append_above (op ++ c) a 3 5).trans (extract_append_high op c)

@[simp] theorem selC_packRegs (op : BitVec 5) (c a b : RegSel) (low : BitVec 2) :
    selC (packRegs op c a b low) = c :=
  (extract_append_above (op ++ c ++ a ++ b) low 6 3).trans <|
    (extract_append_above (op ++ c ++ a) b 3 3).trans <|
      (extract_append_above (op ++ c) a 0 3).trans (extract_append_low op c)

@[simp] theorem selA_packRegs (op : BitVec 5) (c a b : RegSel) (low : BitVec 2) :
    selA (packRegs op c a b low) = a :=
  (extract_append_above (op ++ c ++ a ++ b) low 3 3).trans <|
    (extract_append_above (op ++ c ++ a) b 0 3).trans (extract_append_low (op ++ c) a)

@[simp] theorem selB_packRegs (op : BitVec 5) (c a b : RegSel) (low : BitVec 2) :
    selB (packRegs op c a b low) = b :=
  (extract_append_above (op ++ c ++ a ++ b) low 0 3).trans (extract_append_low (op ++ c ++ a) b)

@[simp] theorem low_packRegs (op : BitVec 5) (c a b : RegSel) (low : BitVec 2) :
    (packRegs op c a b low).extractLsb' 0 2 = low := extract_append_low (op ++ c ++ a ++ b) low

/-- The split immediate of STORE is read back (R56). -/
@[simp] theorem imm5sField_packRegs (op : BitVec 5) (imm : BitVec 5) (a b : RegSel) :
    imm5sField (packRegs op (imm.extractLsb' 2 3) a b (imm.extractLsb' 0 2)) = imm := by
  have h : imm5sField (packRegs op (imm.extractLsb' 2 3) a b (imm.extractLsb' 0 2)) =
      imm.extractLsb' 2 3 ++ imm.extractLsb' 0 2 :=
    congrArg₂ (fun (x : BitVec 3) (y : BitVec 2) => x ++ y)
      (selC_packRegs op (imm.extractLsb' 2 3) a b (imm.extractLsb' 0 2))
      (low_packRegs op (imm.extractLsb' 2 3) a b (imm.extractLsb' 0 2))
  rw [h]
  clear h
  revert imm
  decide

@[simp] theorem opField_packImm5 (op : BitVec 5) (c a : RegSel) (imm : BitVec 5) :
    opField (packImm5 op c a imm) = op :=
  (extract_append_above (op ++ c ++ a) imm 6 5).trans <|
    (extract_append_above (op ++ c) a 3 5).trans (extract_append_high op c)

@[simp] theorem selC_packImm5 (op : BitVec 5) (c a : RegSel) (imm : BitVec 5) :
    selC (packImm5 op c a imm) = c :=
  (extract_append_above (op ++ c ++ a) imm 3 3).trans <|
    (extract_append_above (op ++ c) a 0 3).trans (extract_append_low op c)

@[simp] theorem selA_packImm5 (op : BitVec 5) (c a : RegSel) (imm : BitVec 5) :
    selA (packImm5 op c a imm) = a :=
  (extract_append_above (op ++ c ++ a) imm 0 3).trans (extract_append_low (op ++ c) a)

@[simp] theorem imm5Field_packImm5 (op : BitVec 5) (c a : RegSel) (imm : BitVec 5) :
    imm5Field (packImm5 op c a imm) = imm := extract_append_low (op ++ c ++ a) imm

@[simp] theorem opField_packImm8 (op : BitVec 5) (c : RegSel) (imm : BitVec 8) :
    opField (packImm8 op c imm) = op :=
  (extract_append_above (op ++ c) imm 3 5).trans (extract_append_high op c)

@[simp] theorem selC_packImm8 (op : BitVec 5) (c : RegSel) (imm : BitVec 8) :
    selC (packImm8 op c imm) = c :=
  (extract_append_above (op ++ c) imm 0 3).trans (extract_append_low op c)

@[simp] theorem imm8Field_packImm8 (op : BitVec 5) (c : RegSel) (imm : BitVec 8) :
    imm8Field (packImm8 op c imm) = imm := extract_append_low (op ++ c) imm

@[simp] theorem opField_packImm11 (op : BitVec 5) (imm : BitVec 11) :
    opField (packImm11 op imm) = op := extract_append_high op imm

@[simp] theorem imm11Field_packImm11 (op : BitVec 5) (imm : BitVec 11) :
    imm11Field (packImm11 op imm) = imm := extract_append_low op imm

/-- The opcode map reads the opcode it gives a mnemonic as that mnemonic: no two rows overlap (R59). -/
@[simp] theorem mnemonicOf_opcodeOf (m : Mnemonic) : mnemonicOf (opcodeOf m) = some m := by
  cases m <;> decide

/-- The opcode map has a row for every opcode but 19 and 23 (R60). -/
theorem mnemonicOf_eq_none_iff (op : BitVec 5) : mnemonicOf op = none ↔ op = 19 ∨ op = 23 := by
  revert op; decide

/-- An opcode that the map reads as `m` is the opcode of `m`. -/
theorem opcodeOf_of_mnemonicOf {op : BitVec 5} {m : Mnemonic} (h : mnemonicOf op = some m) :
    opcodeOf m = op := by
  revert op m; decide

/-- How a word decodes, by the mnemonic of its opcode. -/
theorem decode_of_mnemonicOf {w : Word} {m : Mnemonic} (h : mnemonicOf (opField w) = some m) :
    decode w = .ok (operandsOf m w) := by
  simp [decode, h]

end Sys2Proof
end

