-- ==== Sys2Proof/Laws/PerInstr.lean ====
section
/-! SUPPORT. Family EncodedWord: the word of every instruction has the instruction's opcode and is well-formed, its ignored
bits being 0 (R55, R59). -/
namespace Sys2Proof.Laws.EncodedWord

/-- The word of `i` has the opcode of its mnemonic and no flaw. -/
def Statement (i : Instr) : Prop :=
  opField (encode i) = opcodeOf i.mnemonic ∧ wordWellFormed (encode i) = true

/-- A word of a mnemonic whose ignored bits are clear is well-formed. -/
theorem of_fields {w : Word} {m : Mnemonic} (ho : opField w = opcodeOf m)
    (hi : w &&& m.format.ignoredMask = 0) : opField w = opcodeOf m ∧ wordWellFormed w = true := by
  simp [wordWellFormed, wordFlaw, ho, hi]

/-- A bit of a field that is 0. -/
theorem bit_of_field {w : Word} {s k : Nat} (h : w.extractLsb' s k = 0) (i : Nat) (hs : s ≤ i)
    (hi : i < s + k) : w.getLsbD i = false := by
  have := congrArg (fun x : BitVec k => x.getLsbD (i - s)) h
  simpa [show i - s < k by omega, Nat.add_sub_of_le hs] using this

/-- A word is clear under a mask when each of its bits under the mask is. -/
theorem and_mask_eq_zero {w m : Word} (h : ∀ i, i < 16 → m.getLsbD i = true → w.getLsbD i = false) :
    w &&& m = 0 := by
  apply BitVec.eq_of_getLsbD_eq
  intro i hi
  have := h i hi
  cases hm : m.getLsbD i <;> simp_all

/-- Format RRR: `ins[1:0]` clear. -/
theorem mask_rrr (w : Word) (h : w.extractLsb' 0 2 = 0) : w &&& 0x0003 = 0 :=
  and_mask_eq_zero fun i hi hm => by
    have : i < 2 := by revert hm; interval_cases i <;> simp
    exact bit_of_field h i (by omega) (by omega)

/-- Format RR: `ins[4:2]` and `ins[1:0]` clear. -/
theorem mask_rr (w : Word) (hb : selB w = 0) (h : w.extractLsb' 0 2 = 0) : w &&& 0x001F = 0 :=
  and_mask_eq_zero fun i hi hm => by
    have : i < 5 := by revert hm; interval_cases i <;> simp
    by_cases h2 : i < 2
    · exact bit_of_field h i (by omega) (by omega)
    · exact bit_of_field hb i (by omega) (by omega)

/-- Format RI: `ins[10:8]` clear. -/
theorem mask_ri (w : Word) (h : selC w = 0) : w &&& 0x0700 = 0 :=
  and_mask_eq_zero fun i hi hm => by
    have : 8 ≤ i ∧ i < 11 := by revert hm; interval_cases i <;> simp
    exact bit_of_field h i (by omega) (by omega)

/-- Format CRR: `ins[10:8]` and `ins[1:0]` clear. -/
theorem mask_crr (w : Word) (hc : selC w = 0) (h : w.extractLsb' 0 2 = 0) : w &&& 0x0703 = 0 :=
  and_mask_eq_zero fun i hi hm => by
    have : i < 2 ∨ 8 ≤ i ∧ i < 11 := by revert hm; interval_cases i <;> simp
    rcases this with h2 | h2
    · exact bit_of_field h i (by omega) (by omega)
    · exact bit_of_field hc i (by omega) (by omega)

theorem nop : Statement (.nop) :=
  of_fields (by simp [encode, Instr.mnemonic]) (by decide)

theorem hlt : Statement (.hlt) :=
  of_fields (by simp [encode, Instr.mnemonic]) (by decide)

theorem load (rd ra : RegSel) (imm : BitVec 5) : Statement (.load rd ra imm) :=
  of_fields (by simp [encode, Instr.mnemonic]) (BitVec.and_zero)

theorem store (rb ra : RegSel) (imm : BitVec 5) : Statement (.store rb ra imm) :=
  of_fields (by simp [encode, Instr.mnemonic]) (BitVec.and_zero)

theorem li (rd : RegSel) (imm : BitVec 8) : Statement (.li rd imm) :=
  of_fields (by simp [encode, Instr.mnemonic]) (BitVec.and_zero)

theorem lui (rd : RegSel) (imm : BitVec 8) : Statement (.lui rd imm) :=
  of_fields (by simp [encode, Instr.mnemonic]) (BitVec.and_zero)

theorem cmp (ra rb : RegSel) : Statement (.cmp ra rb) :=
  of_fields (by simp [encode, Instr.mnemonic]) (mask_crr _ (by simp [encode]) (by simp [encode]))

theorem add (rd ra rb : RegSel) : Statement (.add rd ra rb) :=
  of_fields (by simp [encode, Instr.mnemonic]) (mask_rrr _ (by simp [encode]))

theorem sub (rd ra rb : RegSel) : Statement (.sub rd ra rb) :=
  of_fields (by simp [encode, Instr.mnemonic]) (mask_rrr _ (by simp [encode]))

theorem and (rd ra rb : RegSel) : Statement (.and rd ra rb) :=
  of_fields (by simp [encode, Instr.mnemonic]) (mask_rrr _ (by simp [encode]))

theorem or (rd ra rb : RegSel) : Statement (.or rd ra rb) :=
  of_fields (by simp [encode, Instr.mnemonic]) (mask_rrr _ (by simp [encode]))

theorem xor (rd ra rb : RegSel) : Statement (.xor rd ra rb) :=
  of_fields (by simp [encode, Instr.mnemonic]) (mask_rrr _ (by simp [encode]))

theorem not (rd ra : RegSel) : Statement (.not rd ra) :=
  of_fields (by simp [encode, Instr.mnemonic]) (mask_rr _ (by simp [encode]) (by simp [encode]))

theorem cmpi (ra : RegSel) (imm : BitVec 5) : Statement (.cmpi ra imm) :=
  of_fields (by simp [encode, Instr.mnemonic]) (mask_ri _ (by simp [encode]))

theorem addi (rd ra : RegSel) (imm : BitVec 5) : Statement (.addi rd ra imm) :=
  of_fields (by simp [encode, Instr.mnemonic]) (BitVec.and_zero)

theorem subi (rd ra : RegSel) (imm : BitVec 5) : Statement (.subi rd ra imm) :=
  of_fields (by simp [encode, Instr.mnemonic]) (BitVec.and_zero)

theorem andi (rd ra : RegSel) (imm : BitVec 5) : Statement (.andi rd ra imm) :=
  of_fields (by simp [encode, Instr.mnemonic]) (BitVec.and_zero)

theorem ori (rd ra : RegSel) (imm : BitVec 5) : Statement (.ori rd ra imm) :=
  of_fields (by simp [encode, Instr.mnemonic]) (BitVec.and_zero)

theorem xori (rd ra : RegSel) (imm : BitVec 5) : Statement (.xori rd ra imm) :=
  of_fields (by simp [encode, Instr.mnemonic]) (BitVec.and_zero)

theorem jmp (imm : BitVec 11) : Statement (.jmp imm) :=
  of_fields (by simp [encode, Instr.mnemonic]) (BitVec.and_zero)

theorem jr (ra : RegSel) (imm : BitVec 5) : Statement (.jr ra imm) :=
  of_fields (by simp [encode, Instr.mnemonic]) (mask_ri _ (by simp [encode]))

theorem jalr (rd ra : RegSel) (imm : BitVec 5) : Statement (.jalr rd ra imm) :=
  of_fields (by simp [encode, Instr.mnemonic]) (BitVec.and_zero)

theorem beq (imm : BitVec 11) : Statement (.beq imm) :=
  of_fields (by simp [encode, Instr.mnemonic]) (BitVec.and_zero)

theorem bne (imm : BitVec 11) : Statement (.bne imm) :=
  of_fields (by simp [encode, Instr.mnemonic]) (BitVec.and_zero)

theorem blt (imm : BitVec 11) : Statement (.blt imm) :=
  of_fields (by simp [encode, Instr.mnemonic]) (BitVec.and_zero)

theorem bgt (imm : BitVec 11) : Statement (.bgt imm) :=
  of_fields (by simp [encode, Instr.mnemonic]) (BitVec.and_zero)

theorem bltu (imm : BitVec 11) : Statement (.bltu imm) :=
  of_fields (by simp [encode, Instr.mnemonic]) (BitVec.and_zero)

theorem bgtu (imm : BitVec 11) : Statement (.bgtu imm) :=
  of_fields (by simp [encode, Instr.mnemonic]) (BitVec.and_zero)

theorem adc (rd ra rb : RegSel) : Statement (.adc rd ra rb) :=
  of_fields (by simp [encode, Instr.mnemonic]) (mask_rrr _ (by simp [encode]))

theorem sbc (rd ra rb : RegSel) : Statement (.sbc rd ra rb) :=
  of_fields (by simp [encode, Instr.mnemonic]) (mask_rrr _ (by simp [encode]))

end Sys2Proof.Laws.EncodedWord
end

