-- ==== Sys2Proof/Tests/Slice0.lean ====
section
/-! SUPPORT. The model's own tests. Expected values are those of spec/ (95_test_vectors.md and the examples of the rules),
named in each comment. Then the witnesses: for every statement with hypotheses, values that meet them together. -/
namespace Sys2Proof.Tests
open Sys2Proof.Machine

-- Decoding: one word written out per constructor -----------------------------------------------------------

/-- R61: every word with opcode 0 -/
theorem test_decode_nop : decode 0b0000011111111111 = .ok (.nop) := by decide

/-- R115 -/
theorem test_decode_hlt : decode 0b0000100000000000 = .ok (.hlt) := by decide

/-- 95 section 2.4: 0x123F -/
theorem test_decode_load : decode 0b0001001000111111 = .ok (.load 2 1 0b11111) := by decide

/-- 95 section 2.4: 0x1F2B, the immediate split as 111 and 11 -/
theorem test_decode_store : decode 0b0001111100101011 = .ok (.store 2 1 0b11111) := by decide

/-- 95 section 2.4: 0x1929, the immediate split as 001 and 01 -/
theorem test_decode_store_split : decode 0b0001100100101001 = .ok (.store 2 1 0b00101) := by decide

/-- 95 section 2.3: 0x21FF -/
theorem test_decode_li : decode 0b0010000111111111 = .ok (.li 1 0xFF) := by decide

/-- 95 section 2.3: 0x29AB -/
theorem test_decode_lui : decode 0b0010100110101011 = .ok (.lui 1 0xAB) := by decide

/-- 95 P5: 0x3028 -/
theorem test_decode_cmp : decode 0b0011000000101000 = .ok (.cmp 1 2) := by decide

/-- R79: 0x3B28 -/
theorem test_decode_add : decode 0b0011101100101000 = .ok (.add 3 1 2) := by decide

/-- R80: 0x4328 -/
theorem test_decode_sub : decode 0b0100001100101000 = .ok (.sub 3 1 2) := by decide

/-- R81: opcode 9, format RRR -/
theorem test_decode_and : decode 0b0100101100101000 = .ok (.and 3 1 2) := by decide

/-- R82: opcode 10, format RRR -/
theorem test_decode_or : decode 0b0101001100101000 = .ok (.or 3 1 2) := by decide

/-- 95 section 2.1: 0x5A48 -/
theorem test_decode_xor : decode 0b0101101001001000 = .ok (.xor 2 2 2) := by decide

/-- R84: opcode 12, format RR -/
theorem test_decode_not : decode 0b0110001100100000 = .ok (.not 3 1) := by decide

/-- 95 P6: 0x6882 -/
theorem test_decode_cmpi : decode 0b0110100010000010 = .ok (.cmpi 4 2) := by decide

/-- 95 P6: 0x7248 -/
theorem test_decode_addi : decode 0b0111001001001000 = .ok (.addi 2 2 8) := by decide

/-- 95 P2: 0x7B61 -/
theorem test_decode_subi : decode 0b0111101101100001 = .ok (.subi 3 3 1) := by decide

/-- R90: opcode 16, format RRI -/
theorem test_decode_andi : decode 0b1000001100110000 = .ok (.andi 3 1 0b10000) := by decide

/-- R91: opcode 17, format RRI -/
theorem test_decode_ori : decode 0b1000101100100101 = .ok (.ori 3 1 5) := by decide

/-- R92: opcode 18, format RRI -/
theorem test_decode_xori : decode 0b1001001100111111 = .ok (.xori 3 1 0b11111) := by decide

/-- 95 section 2.5: JMP -2 = 0xA7FE -/
theorem test_decode_jmp : decode 0b1010011111111110 = .ok (.jmp 0b11111111110) := by decide

/-- 95 section 2.5: 0xA8E0 -/
theorem test_decode_jr : decode 0b1010100011100000 = .ok (.jr 7 0) := by decide

/-- 95 section 2.5: 0xB720 -/
theorem test_decode_jalr : decode 0b1011011100100000 = .ok (.jalr 7 1 0) := by decide

/-- 95 section 2.5: BEQ -5 = 0xC7FB -/
theorem test_decode_beq : decode 0b1100011111111011 = .ok (.beq 0b11111111011) := by decide

/-- 95 section 2.5: 0xC803 -/
theorem test_decode_bne : decode 0b1100100000000011 = .ok (.bne 3) := by decide

/-- 95 section 2.5: 0xD3FF -/
theorem test_decode_blt : decode 0b1101001111111111 = .ok (.blt 1023) := by decide

/-- 95 section 2.5: BGT -1024 = 0xDC00 -/
theorem test_decode_bgt : decode 0b1101110000000000 = .ok (.bgt 0b10000000000) := by decide

/-- 95 section 2.5: 0xE001 -/
theorem test_decode_bltu : decode 0b1110000000000001 = .ok (.bltu 1) := by decide

/-- 95 section 2.5: 0xE802 -/
theorem test_decode_bgtu : decode 0b1110100000000010 = .ok (.bgtu 2) := by decide

/-- 95 P4: 0xF52C -/
theorem test_decode_adc : decode 0b1111010100101100 = .ok (.adc 5 1 3) := by decide

/-- R86: opcode 31, format RRR -/
theorem test_decode_sbc : decode 0b1111101100101000 = .ok (.sbc 3 1 2) := by decide

/-- F1 and F2: opcodes 19 and 23. -/
theorem test_decode_illegal : decode 0x9800 = .error (.illegalOpcode 19) ∧
    decode 0xB800 = .error (.illegalOpcode 23) := by decide

/-- The host's entry: the table numbers a row's bits as the word does. -/
theorem test_decodeTableWord : decodeTableWord 16 0x3B28 = some (.add 3 1 2) ∧
    decodeTableWord 16 0x9800 = none := by decide

-- Well-formed words -----------------------------------------------------------------------------------------

/-- No instruction is assigned (R60). -/
theorem test_wellFormed_unassigned : wordFlaw (mnemonicOf (opField 0x9800)) 0x9800 = some .unassignedOpcode ∧
    wordWellFormed 0xB800 = false := by decide

/-- An ignored bit that is 1, in each format that has one: N, RRR, RR, CRR, RI (R55). -/
theorem test_wellFormed_ignored : wordFlaw (some .nop) 0x0400 = some .ignoredBitSet ∧
    wordWellFormed 0x0001 = false ∧ wordWellFormed 0x3B29 = false ∧ wordWellFormed 0x6330 = false ∧
    wordWellFormed 0x3128 = false ∧ wordWellFormed 0x6D25 = false ∧ wordWellFormed 0xAFE0 = false := by decide

/-- A word of each of the other formats, and the canonical NOP, are well-formed. -/
theorem test_wellFormed_ok : wordWellFormed 0x0000 = true ∧ wordWellFormed 0x733F = true ∧
    wordWellFormed 0x1F2B = true ∧ wordWellFormed 0x29AB = true ∧ wordWellFormed 0xA7FE = true := by decide

/-- A control word that breaks R69 (1), (2) or (4) is refused by MEM. -/
theorem test_controlWord_refused :
    memCheck { nopCtl with memLoad := true, assertStoreOp := true } = some .loadAndAssertStoreOp ∧
    memCheck { nopCtl with memLoad := true, memStore := true } = some .loadAndStore ∧
    memCheck { nopCtl with wbSrc := .bus } = some .busNotDriven ∧ memCheck nopCtl = none := by decide

-- Instructions ------------------------------------------------------------------------------------------------

/-- A state at `pc` with the given registers, the others undefined as R35 leaves them, and the given flags. -/
def at_ (pc : Word) (regs : List (RegSel × Word)) (flags : Flags) : State :=
  regs.foldl (fun s p => s.setReg p.1 (.ofWord p.2))
    { State.resetTable .undef none [] [] with pc := pc, flags := flags }

/-- Undefined flags. -/
def noFlags : Flags := ⟨none, none, none, none⟩

/-- Four flags in the order C Z V N of 95_test_vectors.md. -/
def flags (c z v n : Bool) : Flags := ⟨some c, some z, some v, some n⟩

/-- The answer is a next state that passes `p`. -/
def ok (r : Result) (p : State → Bool) : Bool :=
  match r with
  | .next t => p t
  | .fault _ => false
  | .refused _ => false

/-- The fault answered, where there is one. -/
def faultOf (r : Result) : Option Fault :=
  match r with
  | .fault f => some f
  | .next _ => none
  | .refused _ => none

/-- Register `i` of the answer holds `v` and the flags are `f`. -/
def gives (r : Result) (i : RegSel) (v : Word) (f : Flags) : Bool :=
  ok r fun t => t.reg i == .ofWord v && t.flags == f

/-- Register `i` of the answer holds `v`, and Z and N are as given. -/
def givesZN (r : Result) (i : RegSel) (v : Word) (z n : Bool) : Bool :=
  ok r fun t => t.reg i == .ofWord v && t.flags.z == some z && t.flags.n == some n

/-- The answer continues at `pc`. -/
def goes (r : Result) (pc : Word) : Bool := ok r fun t => t.pc == pc

/-- 2.1. -/
theorem test_add : gives (exec (.add 3 1 2) (at_ 0 [(1, 0x7FFF), (2, 0x0001)] noFlags)) 3 0x8000 (flags false false true true) = true := by decide

/-- 2.1, R77: the source is the destination. -/
theorem test_add_same : gives (exec (.add 1 1 1) (at_ 0 [(1, 0x0015)] noFlags)) 1 0x002A (flags false false false false) = true := by decide

/-- 2.1. -/
theorem test_sub : gives (exec (.sub 3 1 2) (at_ 0 [(1, 0x8000), (2, 0x0001)] noFlags)) 3 0x7FFF (flags true false true false) = true := by decide

/-- 2.1: a borrow clears C. -/
theorem test_sub_borrow : gives (exec (.sub 3 1 2) (at_ 0 [(1, 0x0005), (2, 0x0007)] noFlags)) 3 0xFFFE (flags false false false true) = true := by decide

/-- 2.1, C = 1. -/
theorem test_adc : gives (exec (.adc 3 1 2) (at_ 0 [(1, 0xFFFF), (2, 0x0000)] (flags true false false false))) 3 0x0000 (flags true true false false) = true := by decide

/-- 2.1, C = 1. -/
theorem test_adc_overflow : gives (exec (.adc 3 1 2) (at_ 0 [(1, 0x7FFF), (2, 0x0000)] (flags true false false false))) 3 0x8000 (flags false false true true) = true := by decide

/-- 2.1, C = 0. -/
theorem test_sbc : gives (exec (.sbc 3 1 2) (at_ 0 [(1, 0x0005), (2, 0x0005)] (flags false false false false))) 3 0xFFFF (flags false false false true) = true := by decide

/-- 2.1, C = 1. -/
theorem test_sbc_no_borrow : gives (exec (.sbc 3 1 2) (at_ 0 [(1, 0x0005), (2, 0x0003)] (flags true false false false))) 3 0x0002 (flags true false false false) = true := by decide

/-- 2.1. -/
theorem test_and : givesZN (exec (.and 3 1 2) (at_ 0 [(1, 0xF0F0), (2, 0x0FF0)] noFlags)) 3 0x00F0 false false = true := by decide

/-- 2.1. -/
theorem test_or : givesZN (exec (.or 3 1 2) (at_ 0 [(1, 0xF000), (2, 0x000F)] noFlags)) 3 0xF00F false true = true := by decide

/-- 2.1. -/
theorem test_xor : givesZN (exec (.xor 3 1 2) (at_ 0 [(1, 0xAAAA), (2, 0x5555)] noFlags)) 3 0xFFFF false true = true := by decide

/-- F9: port B (r0) is undefined and NOT does not fault. -/
theorem test_not : givesZN (exec (.not 2 1) (at_ 0 [(1, 5)] noFlags)) 2 0xFFFA false true = true := by decide

/-- 2.1: no register is written. -/
theorem test_cmp : ok (exec (.cmp 1 2) (at_ 0 [(1, 0x8000), (2, 1)] noFlags)) (fun t => t.flags == flags true false true false && t.regs == (at_ 0 [(1, 0x8000), (2, 1)] noFlags).regs) = true := by decide

/-- 2.2. -/
theorem test_addi : gives (exec (.addi 3 1 0b11111) (at_ 0 [(1, 0x0001)] noFlags)) 3 0x0000 (flags true true false false) = true := by decide

/-- 2.2. -/
theorem test_addi_overflow : gives (exec (.addi 3 1 1) (at_ 0 [(1, 0x7FFF)] noFlags)) 3 0x8000 (flags false false true true) = true := by decide

/-- 2.2. -/
theorem test_subi : gives (exec (.subi 3 1 0b10000) (at_ 0 [(1, 0x0010)] noFlags)) 3 0x0020 (flags false false false false) = true := by decide

/-- 2.2. -/
theorem test_subi_overflow : gives (exec (.subi 3 1 1) (at_ 0 [(1, 0x8000)] noFlags)) 3 0x7FFF (flags true false true false) = true := by decide

/-- 2.2. -/
theorem test_andi : givesZN (exec (.andi 3 1 0b10000) (at_ 0 [(1, 0x1234)] noFlags)) 3 0x1230 false false = true := by decide

/-- 2.2. -/
theorem test_ori : givesZN (exec (.ori 3 1 0b10000) (at_ 0 [(1, 0x0000)] noFlags)) 3 0xFFF0 false true = true := by decide

/-- 2.2. -/
theorem test_xori : givesZN (exec (.xori 3 1 0b11111) (at_ 0 [(1, 0x1234)] noFlags)) 3 0xEDCB false true = true := by decide

/-- 2.2. -/
theorem test_cmpi : ok (exec (.cmpi 1 0b10000) (at_ 0 [(1, 0)] noFlags)) (fun t => t.flags == flags false false false false) = true := by decide

/-- 2.3. -/
theorem test_li : gives (exec (.li 1 0x80) (at_ 0 [] noFlags)) 1 0xFF80 noFlags = true := by decide

/-- 2.3. -/
theorem test_lui : gives (exec (.lui 1 0x00) (at_ 0 [(1, 0xFFFF)] noFlags)) 1 0x00FF noFlags = true := by decide

/-- 2.3: the low byte stays undefined. -/
theorem test_lui_undefined : ok (exec (.lui 1 0x12) (at_ 0 [] noFlags)) (fun t => t.reg 1 == ⟨some 0x12, none⟩) = true := by decide

/-- 2.4. -/
theorem test_load_wraps : gives (exec (.load 2 1 1) ((at_ 0 [(1, 0xFFFF)] noFlags).seedData 0 0x0042)) 2 0x0042 noFlags = true := by decide

/-- 2.4, F7: no fault until r2 is used. -/
theorem test_load_undefined : ok (exec (.load 2 1 0) (at_ 0 [(1, 0)] noFlags)) (fun t => t.reg 2 == .undef) = true := by decide

/-- 2.4. -/
theorem test_store : ok (exec (.store 2 1 5) (at_ 0 [(1, 0x0011), (2, 0x1234)] noFlags)) (fun t => Memory.readWord t.dmem 0x0016 == .ofWord 0x1234) = true := by decide

/-- 2.4. -/
theorem test_store_undefined : faultOf (exec (.store 2 1 0) (at_ 0 [(1, 0)] noFlags)) = some (.undefinedRegister 2 ⟨some 0, some 0⟩) := by decide

/-- 2.5: JMP -2 jumps to itself. -/
theorem test_jmp : goes (exec (.jmp 0b11111111110) (at_ 5 [] noFlags)) 5 = true := by decide

/-- 2.5: JMP -1024 at 0. -/
theorem test_jmp_wraps : goes (exec (.jmp 0b10000000000) (at_ 0 [] noFlags)) 0xFC02 = true := by decide

/-- 2.5. -/
theorem test_jr : goes (exec (.jr 7 0b11111) (at_ 9 [(7, 0)] noFlags)) 0xFFFF = true := by decide

/-- 2.5: the target comes from the old r1. -/
theorem test_jalr_same : ok (exec (.jalr 1 1 2) (at_ 0x10 [(1, 0x30)] noFlags)) (fun t => t.pc == 0x32 && t.reg 1 == .ofWord 0x11) = true := by decide

/-- 2.5. -/
theorem test_jalr_wraps : ok (exec (.jalr 7 1 0) (at_ 0xFFFF [(1, 0)] noFlags)) (fun t => t.pc == 0 && t.reg 7 == .ofWord 0) = true := by decide

/-- 2.5. -/
theorem test_beq : goes (exec (.beq 0b11111111011) (at_ 8 [] ⟨none, some true, none, none⟩)) 5 = true := by decide

/-- 2.5. -/
theorem test_beq_not_taken : goes (exec (.beq 0b11111111011) (at_ 8 [] (flags true false false false))) 9 = true := by decide

/-- 2.5. -/
theorem test_bne : goes (exec (.bne 3) (at_ 8 [] ⟨none, some false, none, none⟩)) 0xD = true := by decide

/-- 2.5. -/
theorem test_bne_not_taken : goes (exec (.bne 3) (at_ 8 [] (flags false true false false))) 9 = true := by decide

/-- 2.5. -/
theorem test_blt : goes (exec (.blt 1023) (at_ 0 [] ⟨none, none, some false, some true⟩)) 0x401 = true := by decide

/-- 2.5. -/
theorem test_blt_not_taken : goes (exec (.blt 1023) (at_ 0 [] (flags false false true true))) 1 = true := by decide

/-- 2.5. -/
theorem test_bgt : goes (exec (.bgt 0b10000000000) (at_ 0x500 [] ⟨none, some false, some false, some false⟩)) 0x102 = true := by decide

/-- 2.5. -/
theorem test_bgt_not_taken : goes (exec (.bgt 0b10000000000) (at_ 0x500 [] (flags false false false true))) 0x501 = true := by decide

/-- 2.5. -/
theorem test_bltu : goes (exec (.bltu 1) (at_ 4 [] ⟨some false, none, none, none⟩)) 7 = true := by decide

/-- 2.5. -/
theorem test_bltu_not_taken : goes (exec (.bltu 1) (at_ 4 [] (flags true false false false))) 5 = true := by decide

/-- 2.5. -/
theorem test_bgtu : goes (exec (.bgtu 2) (at_ 4 [] ⟨some true, some false, none, none⟩)) 8 = true := by decide

/-- 2.5. -/
theorem test_bgtu_not_taken : goes (exec (.bgtu 2) (at_ 4 [] (flags true true false false))) 5 = true := by decide

/-- F4. -/
theorem test_branch_undefined : faultOf (exec (.beq 0) (at_ 0 [] noFlags)) = some (.undefinedFlags ⟨some 0, some 0⟩) := by decide

/-- S1. -/
theorem test_nop : ok (exec .nop (at_ 0xFFFF [] noFlags)) (fun t => t.pc == 0 && t.regs == (at_ 0 [] noFlags).regs) = true := by decide

/-- R30: after HLT nothing runs. -/
theorem test_hlt : ok (exec .hlt (at_ 0 [] noFlags)) (fun t => t.halted && faultOf (step t) == some .halted) = true := by decide

-- Steps -------------------------------------------------------------------------------------------------------

/-- Right after reset, with nothing loaded, the first step faults on the undefined word at 0 (F5, R39). -/
theorem test_step_from_reset :
    faultOf (step State.reset) = some (.undefinedInstructionWord 0 ⟨some 0, none⟩) := by decide

/-- The host's entry: the placed word is what runs, `LI r1, -1`. -/
theorem test_withFetchWord : ok (step (State.reset.withFetchWord 16 0x21FF))
    (fun t => t.reg 1 == .ofWord 0xFFFF && t.pc == 1) = true := by decide

/-- F1 at the instruction level. -/
theorem test_step_illegal : faultOf (step (State.reset.withFetchWord 16 0x9800)) =
    some (.illegalOpcode 19 ⟨some 0, some 0x9800⟩) := by decide

-- Cycles --------------------------------------------------------------------------------------------------------

/-- From the reset of R35, with the program at 0, stepped by the cycle. -/
def loaded (words : List Word) : State :=
  ((State.resetTable .undef none [] []).bulkStore words 0).setStepping .cycle

/-- F1: `IllegalOpcode(19)` in cycle 3. -/
theorem test_cycle_illegal : (cycles (loaded [0x9800, 0, 0]) 2).faulted = none ∧
    (cycles (loaded [0x9800, 0, 0]) 3).faulted = some (.illegalOpcode 19 ⟨some 0, some 0x9800⟩) := by decide

/-- F3: port A is checked before port B. -/
theorem test_cycle_undefined_register : (cycles (loaded [0x394C, 0, 0]) 3).faulted =
    some (.undefinedRegister 2 ⟨some 0, some 0x394C⟩) := by decide

/-- F5: an empty instruction memory. -/
theorem test_cycle_undefined_word : (cycles (loaded []) 3).faulted =
    some (.undefinedInstructionWord 0 ⟨some 0, none⟩) := by decide

/-- S3: without padding the LI just before HLT loses its write-back; the run halts after cycle 4. -/
theorem test_cycle_halt_hedge : (cycles (loaded [0x2105, 0x0800, 0, 0]) 4).halted = true ∧
    (cycles (loaded [0x2105, 0x0800, 0, 0]) 4).reg 1 = .undef := by decide

/-- S4: HLT stalls behind a LI of r0, so r0 is written; the run halts after cycle 5. -/
theorem test_cycle_halt_bubble : (cycles (loaded [0x2005, 0x0800, 0, 0]) 4).halted = false ∧
    (cycles (loaded [0x2005, 0x0800, 0, 0]) 5).halted = true ∧
    (cycles (loaded [0x2005, 0x0800, 0, 0]) 5).reg 0 = .ofWord 5 := by decide

/-- H5: `LI r1, 3`; `ADD r2, r1, r1` stalls one cycle and then takes the store operand from MEM, so r2 = 6 after cycle 7. -/
theorem test_cycle_forward : stallSignal (cycles (loaded [0x2103, 0x3A24, 0, 0, 0, 0]) 2) = true ∧
    (cycles (loaded [0x2103, 0x3A24, 0, 0, 0, 0]) 7).reg 2 = .ofWord 6 := by decide

/-- F10: the illegal word after `JMP 0` is squashed. -/
theorem test_cycle_squash : (cycles (loaded [0xA000, 0x9800, 0, 0x0800, 0, 0]) 7).faulted = none ∧
    (cycles (loaded [0xA000, 0x9800, 0, 0x0800, 0, 0]) 7).halted = true := by decide

-- Witnesses: values that meet the hypotheses of a statement, clause by clause --------------------------------

/-- Registers r1 and r2 defined, the others not; flags defined. -/
def two (a b : Word) : State := at_ 0 [(1, a), (2, b)] (flags true false true false)

/-- A platform with an IMEM_ALIAS window, a device window, and the base register r1. -/
def board (base v : Word) : State :=
  { two base v with platform := ⟨[⟨0x8000, 0xBFFF, 0⟩], true, [⟨0xF000, 0xF0FF⟩]⟩ }

/-- As `board`, with IMEM_ALIAS as in 95 P6, which overlaps the device window, and data memory left alone. -/
def overlap (base v : Word) : State :=
  { two base v with platform := ⟨[⟨0x8000, 0xFFFF, 0⟩], false, [⟨0xF000, 0xF0FF⟩]⟩ }

/-- The word `w` at 0, about to run, on a platform whose IMEM_ALIAS maps each address to itself, with two rewritten words
pending at other addresses. -/
def pending (w : Nat) : State :=
  { State.reset.withFetchWord 16 w with
    platform := ⟨[⟨0, 0xFFFF, 0⟩], false, []⟩, stale := [⟨5, none, 2⟩, ⟨6, some 7, 1⟩] }

/-- From the model's reset, with the program at 0, stepped by the cycle. -/
def booted (words : List Word) : State := (State.reset.bulkStore words 0).setStepping .cycle

/-- `ADD r3, r1, r2` about to be fetched. -/
def addAtZero : State := booted [0x3B28, 0, 0]

/-- HLT in EX. -/
def hltInEx : State := cycles (booted [0x0800, 0, 0]) 2

/-- `ADD r1, r1, r1` in EX, a NOP behind it. -/
def addInEx : State := cycles (booted [0x3924, 0, 0]) 2

/-- `LOAD r1, r1, 0` in EX. -/
def loadInEx : State := cycles (booted [0x1120, 0, 0]) 2

/-- `STORE r2, r1, 0` in EX. -/
def storeInEx : State := cycles (booted [0x1828, 0, 0]) 2

/-- H1: `ADD r1, r1, r1` in EX, `ADD r2, r1, r1` in ID. -/
def addBeforeUse : State := cycles (booted [0x3924, 0x3A24, 0]) 2

/-- H4: `LOAD r1, r1, 0` in MEM, its consumer in ID. -/
def loadInMem : State := cycles (booted [0x1120, 0, 0x3A24]) 3

/-- `JALR r7, r1, 0` in EX, `ADD r2, r7, r7` in ID. -/
def jalrBeforeUse : State := cycles (booted [0xB720, 0x3AFC, 0]) 2

/-- H2: the same with a NOP between, in EX. -/
def addInMem : State := cycles (booted [0x3924, 0, 0x3A24]) 3

/-- H3: `LOAD r1, r1, 0` in EX, its consumer in ID. -/
def loadBeforeUse : State := cycles (booted [0x1120, 0x3A24, 0]) 2

/-- H6: `LUI r1, 3` in EX, its consumer in ID. -/
def luiBeforeUse : State := cycles (booted [0x2903, 0x3A24, 0]) 2

/-- H5: `LI r1, 3` in EX, its consumer in ID. -/
def liBeforeUse : State := cycles (booted [0x2103, 0x3A24, 0]) 2

/-- H9: `CMP r1, r1` in EX, `BEQ -1` in ID. -/
def cmpBeforeBranch : State := cycles (booted [0x3024, 0xC7FF, 0]) 2

/-- F10: `JMP 0` in EX. -/
def jumpInEx : State := cycles (booted [0xA000, 0x9800, 0]) 2

/-- F1: opcode 19 in EX. -/
def illegalInEx : State := cycles (booted [0x9800, 0, 0]) 2

/-- `LI r1, 5` in WB. -/
def liInWb : State := cycles (booted [0x2105, 0, 0, 0]) 4

/-- Halted. -/
def halted : State := cycles (booted [0x0800, 0, 0]) 3

theorem witness_IgnoredBitsHaveNoEffect :
    mnemonicOf (opField 0x3B28) = some .add ∧ (3 : Word) &&& Format.ignoredMask .rrr ≠ 0 := by decide

theorem witness_EveryOpcodeZeroWordIsNop :
    (0x07FF : Word).extractLsb' 11 5 = 0 ∧ (0x0000 : Word).extractLsb' 11 5 = 0 := by decide

theorem witness_StepRunsTheDecodedInstruction :
    AtInstruction (State.reset.withFetchWord 16 0x3B28) ∧
      (State.reset.withFetchWord 16 0x3B28).fetchWord = some 0x3B28 ∧ decode 0x3B28 = .ok (.add 3 1 2) ∧
      (State.reset.withFetchWord 16 0x3B28).stale = [] ∧
      Memory.readWord (State.reset.withFetchWord 16 0x3B28).imem 0 = .ofWord 0x3B28 := by unfold AtInstruction; decide

/-- With a rewritten word pending at another address. -/
theorem witness_StepRunsTheDecodedInstruction_pending :
    AtInstruction { State.reset.withFetchWord 16 0x3B28 with stale := [⟨5, none, 2⟩] } ∧
      State.fetchWord { State.reset.withFetchWord 16 0x3B28 with stale := [⟨5, none, 2⟩] } = some 0x3B28 := by unfold AtInstruction; decide

theorem witness_PlacedWordRunsNext :
    decode 0x3B28 = .ok (.add 3 1 2) ∧ decode 0x9800 = .error (.illegalOpcode 19) := by decide

theorem witness_UndefinedInstructionWordFaults :
    AtInstruction State.reset ∧ State.reset.stale = [] ∧
      (Memory.readWord State.reset.imem 0).word? = none := by unfold AtInstruction; decide

theorem witness_HaltedBitRules :
    (Latches hltInEx ∧ hltInEx.idex.ctl.hlt = true) ∧
      (Latches (booted []) ∧ (booted []).idex.ctl.hlt = false) ∧ ((booted []).setReset true).rst = true ∧
      halted.halted = true ∧ halted.rst = false := by unfold Latches; decide

theorem witness_InactiveReadyIsRefused :
    (State.reset.setReady true).rst = false ∧ (State.reset.setReady true).faulted = none ∧
      (State.reset.setReady true).halted = false ∧ (State.reset.setReady true).ready = true := by decide

theorem witness_ResetCycleRestoresTheTable :
    ((cycles (booted [0x2105]) 3).setReset true).rst = true ∧
      (cycles (booted [0x2105]) 3).idex ≠ .bubble := by decide

/-- r1 and r2 are defined; r3 is not, for the fault of either port. -/
theorem witness_AddAndSubResults :
    ((two 0xFFFF 1).reg 1).word? = some 0xFFFF ∧ ((two 0xFFFF 1).reg 2).word? = some 1 ∧
      ((two 0xFFFF 1).reg 3).word? = none := by decide

/-- r1 and r2 are defined; r3 is not, for the fault of either port. -/
theorem witness_LogicResults :
    ((two 0xFFFF 1).reg 1).word? = some 0xFFFF ∧ ((two 0xFFFF 1).reg 2).word? = some 1 ∧
      ((two 0xFFFF 1).reg 3).word? = none := by decide

/-- r1 and r2 are defined; r3 is not, for the fault of either port. -/
theorem witness_CmpResult :
    ((two 0xFFFF 1).reg 1).word? = some 0xFFFF ∧ ((two 0xFFFF 1).reg 2).word? = some 1 ∧
      ((two 0xFFFF 1).reg 3).word? = none := by decide

theorem witness_NotResult :
    ((two 0xFFFF 1).reg 1).word? = some 0xFFFF ∧ ((two 0xFFFF 1).reg 3).word? = none := by decide

theorem witness_CarryChainResults :
    ((two 0xFFFF 1).reg 1).word? = some 0xFFFF ∧ ((two 0xFFFF 1).reg 2).word? = some 1 ∧
      ((two 0xFFFF 1).reg 3).word? = none ∧
      (two 0xFFFF 1).flags.c = some true ∧ (at_ 0 [] (flags false true true true)).flags.c = some false ∧
      (at_ 0 [] noFlags).flags.c = none := by decide

/-- Both ends of the immediate. -/
theorem witness_AddiResult :
    ((two 0xFFFF 1).reg 1).word? = some 0xFFFF ∧ ((two 0xFFFF 1).reg 3).word? = none ∧
      (0xFFF0 : Word) = (0b10000 : BitVec 5).signExtend 16 ∧
      (15 : Word) = (15 : BitVec 5).signExtend 16 := by decide

/-- Both ends of the immediate. -/
theorem witness_ImmediateLogicResults :
    ((two 0xFFFF 1).reg 1).word? = some 0xFFFF ∧ ((two 0xFFFF 1).reg 3).word? = none ∧
      (0xFFF0 : Word) = (0b10000 : BitVec 5).signExtend 16 ∧
      (15 : Word) = (15 : BitVec 5).signExtend 16 := by decide

/-- Both ends of the immediate; `f` names its right-hand side. -/
theorem witness_SubiAndCmpiResults :
    ((two 0xFFFF 1).reg 1).word? = some 0xFFFF ∧ ((two 0xFFFF 1).reg 3).word? = none ∧
      (0xFFF0 : Word) = (0b10000 : BitVec 5).signExtend 16 ∧
      (15 : Word) = (15 : BitVec 5).signExtend 16 := by decide

/-- Both ends of the device window. -/
theorem witness_LoadResult :
    ((board 0xF000 1).reg 1).word? = some 0xF000 ∧ ((board 0xF000 1).reg 3).word? = none ∧
      (board 0xF000 1).platform.isDevice (0xF000 + (0 : BitVec 5).signExtend 16) = true ∧
      (board 0xF000 1).platform.isDevice (0xF000 + (0b11111 : BitVec 5).signExtend 16) = false ∧
      (board 0xF000 1).platform.isDevice 0xF0FF = true ∧
      (board 0xF000 1).platform.isDevice 0xF100 = false := by decide

/-- A device address, and the ordinary address below it. -/
theorem witness_StoreResult :
    ((board 0xF000 1).reg 1).word? = some 0xF000 ∧ ((board 0xF000 1).reg 2).word? = some 1 ∧
      ((board 0xF000 1).reg 3).word? = none ∧
      (board 0xF000 1).platform.aliasOf 0xF000 = none ∧ (board 0xF000 1).platform.isDevice 0xF000 = true ∧
      (board 0xF000 1).platform.aliasOf 0xEFFF = none ∧
      (board 0xF000 1).platform.isDevice 0xEFFF = false := by decide

/-- Both ends of the window; the store also writes data memory. -/
theorem witness_StoreThroughAliasResult :
    ((board 0x8000 1).reg 1).word? = some 0x8000 ∧ ((board 0x8000 1).reg 2).word? = some 1 ∧
      (board 0x8000 1).platform.aliasOf (0x8000 + (0 : BitVec 5).signExtend 16) = some 0 ∧
      (board 0x8000 1).platform.aliasOf 0xBFFF = some 0x3FFF ∧
      (board 0x8000 1).platform.aliasOf 0x7FFF = none ∧ (board 0x8000 1).platform.aliasOf 0xC000 = none ∧
      (board 0x8000 1).platform.aliasWritesData = true := by decide

/-- An address in both maps, on a platform whose aliased stores leave data memory. -/
theorem witness_StoreThroughAliasResult_overlap :
    ((overlap 0xF000 1).reg 1).word? = some 0xF000 ∧ ((overlap 0xF000 1).reg 2).word? = some 1 ∧
      (overlap 0xF000 1).platform.aliasOf (0xF000 + (0 : BitVec 5).signExtend 16) = some 0x7000 ∧
      (overlap 0xF000 1).platform.isDevice 0xF000 = true ∧
      (overlap 0xF000 1).platform.aliasWritesData = false := by decide

theorem witness_LoadReturnsTheStoredWord :
    ((two 0xFFFF 7).reg 1).word? = some 0xFFFF ∧ ((two 0xFFFF 7).reg 2).word? = some 7 ∧
      (two 0xFFFF 7).platform.aliasOf (0xFFFF + (1 : BitVec 5).signExtend 16) = none ∧
      (two 0xFFFF 7).platform.isDevice (0xFFFF + (1 : BitVec 5).signExtend 16) = false := by decide

/-- The use is an ADC, whose flag is defined, through either port. -/
theorem witness_UndefinedDataFaultsOnUse :
    ((two 4 7).reg 1).word? = some 4 ∧
      (two 4 7).platform.isDevice (4 + (0 : BitVec 5).signExtend 16) = false ∧
      (Memory.readWord (two 4 7).dmem (4 + (0 : BitVec 5).signExtend 16)).word? = none ∧
      ∃ t, exec (.load 3 1 0) (two 4 7) = .next t ∧ flagRead .adc t.flags ≠ some none ∧
        portA (.adc 1 3 2) = some 3 ∧ portB (.adc 1 1 3) = some 3 ∧ Defined t (portA (.adc 1 1 3)) := by
  refine ⟨by decide, by decide, by decide, _, rfl, by decide, by decide, by decide, ?_⟩
  intro i h; cases h; decide

theorem witness_JumpResults :
    ((two 0xFFFF 1).reg 1).word? = some 0xFFFF ∧ ((two 0xFFFF 1).reg 3).word? = none := by decide

theorem witness_EqualityBranchResults :
    (flags true true true true).z = some true ∧ (two 0 0).flags.z = some false ∧ noFlags.z = none ∧
      (6 : Word) = 5 + 2 + (0b11111111111 : BitVec 11).signExtend 16 := by decide

theorem witness_SignedBranchResults :
    (two 0 0).flags.n = some false ∧ (two 0 0).flags.v = some true ∧ (two 0 0).flags.z = some false ∧
      noFlags.n = none ∧ noFlags.v = none ∧ noFlags.z = none := by decide

theorem witness_UnsignedBranchResults :
    (two 0 0).flags.c = some true ∧ (two 0 0).flags.z = some false ∧ noFlags.c = none ∧
      noFlags.z = none := by decide

/-- Less as a signed number, greater as an unsigned one. -/
theorem witness_BranchesDecideTheComparison :
    ((two 0x8000 1).reg 1).word? = some 0x8000 ∧ ((two 0x8000 1).reg 2).word? = some 1 := by decide

theorem witness_HltResult :
    (two 0 0).prior = none ∧ (State.retire (two 0 0) none).prior = some ⟨none⟩ ∧
      (State.commit (two 0 0) 1 .undef).prior = some ⟨some (1, .ofWord 0)⟩ ∧
      ∃ t, exec (.li 1 5) (two 0 0) = .next t := ⟨by decide, by decide, by decide, _, rfl⟩

theorem witness_EveryInstructionCompletesOrFaultsInOrder :
    flagRead .adc noFlags = some none ∧ flagRead .adc (two 0 0).flags ≠ some none ∧
      portA (.adc 1 3 2) = some 3 ∧ ((two 0 0).reg 3).word? = none ∧
      Defined (two 0 0) (portA (.adc 1 1 3)) ∧ portB (.adc 1 1 3) = some 3 ∧
      Defined (two 0 0) (portB (.adc 1 1 2)) := by
  refine ⟨by decide, by decide, by decide, by decide, ?_, by decide, ?_⟩ <;>
    (intro i h; cases h; decide)

theorem witness_OnlyTheFlagSettersWriteFlags :
    (setsFlags .li = false ∧ ∃ t, exec (.li 1 5) (two 0 0) = .next t) ∧
      (Latches addInEx ∧ addInEx.idex.ctl.fi = true) ∧
      Latches (booted []) ∧ (booted []).idex.ctl.fi = false := by
  refine ⟨⟨by decide, _, rfl⟩, ?_, ?_⟩ <;> (unfold Latches; decide)

theorem witness_OnlyTheDestinationIsWritten :
    Instr.add 3 1 2 ≠ .hlt ∧ ∃ t, exec (.add 3 1 2) (two 0 0) = .next t := ⟨by decide, _, rfl⟩

theorem witness_OnlyStoreWritesMemory :
    (∃ t, exec (.load 3 1 0) (two 0 0) = .next t) ∧ (∀ rb ra imm, Instr.load 3 1 0 ≠ .store rb ra imm) ∧
      (∃ t, exec (.store 2 1 0) (two 0 0) = .next t) ∧
      ∀ rd ra imm, Instr.store 2 1 0 ≠ .load rd ra imm := ⟨⟨_, rfl⟩, by simp, ⟨_, rfl⟩, by simp⟩

theorem witness_OnlyHltHalts :
    (∃ t, exec .hlt (two 0 0) = .next t) ∧ ∃ t, exec .nop (two 0 0) = .next t := ⟨⟨_, rfl⟩, ⟨_, rfl⟩⟩

theorem witness_StepKeepsMemoriesCanonical :
    MemoriesCanonical (State.reset.withFetchWord 16 0x1828) ∧
      (∃ t, step (State.reset.withFetchWord 16 0x1828) = .next t) ∧
      MemoriesCanonical (booted [0x1828]) ∧ ∃ t, step (booted [0x1828]) = .next t := by
  unfold MemoriesCanonical
  exact ⟨by decide, ⟨_, rfl⟩, by decide, ⟨_, rfl⟩⟩

theorem witness_InstructionLevelStaysIdle :
    IdleAtInstruction (State.reset.withFetchWord 16 0x2105) ∧
      ∃ t, step (State.reset.withFetchWord 16 0x2105) = .next t := ⟨fun _ => by decide, _, rfl⟩

/-- A LI with two rewritten words pending, with counts 2 and 1: the older one goes. -/
theorem witness_RewrittenWordsAreStaleForTwoInstructions :
    (pending 0x2105).stepping = .instruction ∧ StaleBounded (pending 0x2105) ∧
      ∃ t, step (pending 0x2105) = .next t ∧
      ⟨5, none, 1⟩ ∈ t.stale := ⟨by decide, by unfold StaleBounded; decide, _, rfl, by decide⟩

/-- `STORE r2, r1, 0` through IMEM_ALIAS, at its own address: the next two instructions may still run the old word. -/
theorem witness_RewrittenWordsAreStaleForTwoInstructions_store :
    StaleBounded (pending 0x1828) ∧
      ∃ t, step (pending 0x1828) = .next t ∧
      t.stale = [⟨5, none, 1⟩, ⟨0, some 0x1828, 2⟩] := ⟨by unfold StaleBounded; decide, _, rfl, by decide⟩

theorem witness_RewrittenWordsAreStaleForTwoInstructions_cycle :
    StaleBounded { booted [0x2105] with stale := [⟨5, none, 2⟩] } ∧
      ∃ t, step { booted [0x2105] with stale := [⟨5, none, 2⟩] } = .next t := ⟨by unfold StaleBounded; decide, _, rfl⟩

theorem witness_DecodeTableRows :
    flags true false true false = ⟨some true, some false, some true, some false⟩ := by decide

theorem witness_DecodeRowsKeepTheInvariants :
    decodeControl 2 noFlags false = controlRow .load false ∧
      memCheck (ControlWord.mk false .regB .regB .none false false false false true true false .bus true true true false false none) =
        some .loadAndStore := by decide

theorem witness_DecodeTableInputs :
    (23 : BitVec 5) < 24 ∧ ¬(24 : BitVec 5) < 24 ∧ mnemonicOf 31 = some .sbc ∧
      flagRead .sbc noFlags = some none ∧ flagRead .sbc (flags false true true true) ≠ some none ∧
      (⟨none, 4, none⟩ : IfId).ins = none := by decide

/-- At rest, and with a LOAD in EX. -/
theorem witness_StepKeepsThePipelineSound :
    (SoundPipeline State.reset ∧ ∃ t, step (State.reset.withFetchWord 16 0x2105) = .next t) ∧
      SoundPipeline loadInEx ∧ loadInEx.idex.ctl.memLoad = true ∧
      ∃ t, step loadInEx = .next t := by
  have none_sound : NoInternalError none := fun _ _ h => by cases h
  refine ⟨⟨⟨?_, ?_, none_sound⟩, _, rfl⟩, ⟨?_, ?_, none_sound⟩, by decide, _, rfl⟩ <;>
    first | (unfold SoundIdEx; decide) | (unfold SoundExMem; decide)

/-- With a STORE in EX. -/
theorem witness_StepKeepsThePipelineSound_store :
    SoundPipeline storeInEx ∧ storeInEx.idex.ctl.memStore = true := by
  refine ⟨⟨?_, ?_, fun _ _ h => by cases h⟩, by decide⟩ <;>
    first | (unfold SoundIdEx; decide) | (unfold SoundExMem; decide)

/-- A producer in EX, one in MEM, and none. -/
theorem witness_HazardUnitResolutions :
    (addBeforeUse.idex.ctl.wben = true ∧ addBeforeUse.idex.selC = some 1) ∧
      ¬(addInMem.idex.ctl.wben = true ∧ addInMem.idex.selC = some 1) ∧
      (addInMem.exmem.ctl.wben = true ∧ addInMem.exmem.selC = some 1) ∧
      ¬(addBeforeUse.exmem.ctl.wben = true) := by decide

/-- H1. -/
theorem witness_ForwardedOperandIsTheYoungestValue_exFwd :
    ∃ (m : MemOut) (x : ExOut), memStage (wbStage addBeforeUse) = .ok m ∧
      exStage addBeforeUse.pc addBeforeUse.idex = .ok x ∧
      resolve addBeforeUse.idex addBeforeUse.exmem 1 = .exFwd ∧
      addBeforeUse.idex.ctl.j = false ∧
      stallSignal addBeforeUse = false := ⟨_, _, rfl, rfl, by decide, by decide, by decide⟩

/-- H2. -/
theorem witness_ForwardedOperandIsTheYoungestValue_memFwd :
    ∃ (m : MemOut) (x : ExOut), memStage (wbStage addInMem) = .ok m ∧
      exStage addInMem.pc addInMem.idex = .ok x ∧
      resolve addInMem.idex addInMem.exmem 1 = .memFwd ∧
      addInMem.idex.ctl.j = false ∧
      stallSignal addInMem = false := ⟨_, _, rfl, rfl, by decide, by decide, by decide⟩

/-- H4: a LOAD in MEM forwards the bus, not its address. -/
theorem witness_ForwardedOperandIsTheYoungestValue_memFwd_load :
    ∃ (m : MemOut) (x : ExOut), memStage (wbStage loadInMem) = .ok m ∧
      exStage loadInMem.pc loadInMem.idex = .ok x ∧
      resolve loadInMem.idex loadInMem.exmem 1 = .memFwd ∧
      loadInMem.idex.ctl.j = false ∧
      stallSignal loadInMem = false := ⟨_, _, rfl, rfl, by decide, by decide, by decide⟩

/-- A register that nothing in flight writes. -/
theorem witness_ForwardedOperandIsTheYoungestValue_register :
    ∃ (m : MemOut) (x : ExOut), memStage (wbStage addBeforeUse) = .ok m ∧
      exStage addBeforeUse.pc addBeforeUse.idex = .ok x ∧
      resolve addBeforeUse.idex addBeforeUse.exmem 5 = .fromRegister ∧
      addBeforeUse.idex.ctl.j = false ∧
      stallSignal addBeforeUse = false := ⟨_, _, rfl, rfl, by decide, by decide, by decide⟩

/-- H3, with a LOAD of an undefined word. -/
theorem witness_LoadUseStallsOneCycle :
    Latches loadBeforeUse ∧
      loadBeforeUse.idex.ctl.wben = true ∧ loadBeforeUse.idex.selC = some 1 ∧
      1 = selA (idWord loadBeforeUse.ifid) ∧ loadBeforeUse.idex.ctl.wbSrc = .bus ∧
      loadBeforeUse.idex.ctl.writeLo = true ∧ loadBeforeUse.idex.ctl.writeHi = true ∧
      loadBeforeUse.idex.ctl.j = false := by unfold Latches; decide

/-- `JALR r7, r1, 0`, then a word that reads r7. -/
theorem witness_LoadUseStallsOneCycle_jalr :
    Latches jalrBeforeUse ∧
      jalrBeforeUse.idex.ctl.wben = true ∧ jalrBeforeUse.idex.selC = some 7 ∧
      7 = selA (idWord jalrBeforeUse.ifid) ∧ jalrBeforeUse.idex.ctl.wbSrc = .bus ∧
      jalrBeforeUse.idex.ctl.writeLo = true ∧ jalrBeforeUse.idex.ctl.writeHi = true ∧
      jalrBeforeUse.idex.ctl.j = true ∧ Latches (cycle jalrBeforeUse) := by unfold Latches; decide

/-- H6. -/
theorem witness_LoadUseStallsOneCycle_lui :
    Latches luiBeforeUse ∧
      luiBeforeUse.idex.ctl.wben = true ∧ luiBeforeUse.idex.selC = some 1 ∧
      1 = selA (idWord luiBeforeUse.ifid) ∧ luiBeforeUse.idex.ctl.wbSrc = .bus ∧
      luiBeforeUse.idex.ctl.writeLo = false ∧ luiBeforeUse.idex.ctl.j = false ∧
      Latches (cycle luiBeforeUse) := by unfold Latches; decide

/-- H9. -/
theorem witness_FlagsHazardStallsOneCycle :
    Latches cmpBeforeBranch ∧ cmpBeforeBranch.idex.ctl.j = false ∧
      flagsHazard (idWord cmpBeforeBranch.ifid) cmpBeforeBranch.idex = true := by unfold Latches; decide

/-- F10; H5; the first cycle. -/
theorem witness_FetchStageRules :
    (Latches jumpInEx ∧ jumpInEx.idex.ctl.j = true) ∧
      (Latches liBeforeUse ∧ liBeforeUse.idex.ctl.j = false ∧
        stallSignal liBeforeUse = true) ∧
      Latches (booted []) ∧ (booted []).idex.ctl.j = false ∧
      stallSignal (booted []) = false := by unfold Latches; decide

theorem witness_FlushAndStallSquashDecode :
    (∃ m x, memStage (wbStage jumpInEx) = .ok m ∧
        exStage jumpInEx.pc jumpInEx.idex = .ok x ∧ jumpInEx.idex.ctl.j = true) ∧
      ∃ m x, memStage (wbStage liBeforeUse) = .ok m ∧
        exStage liBeforeUse.pc liBeforeUse.idex = .ok x ∧
        stallSignal liBeforeUse = true := ⟨⟨_, _, rfl, rfl, by decide⟩, _, _, rfl, rfl, by decide⟩

/-- F1. -/
theorem witness_FaultStopsWithNothingLatched :
    illegalInEx.rst = false ∧ illegalInEx.faulted = none ∧
      (cycle illegalInEx).faulted = some (.illegalOpcode 19 ⟨some 0, some 0x9800⟩) ∧
      ∃ m, memStage (wbStage illegalInEx) = .ok m := ⟨by decide, by decide, by decide, _, rfl⟩

theorem witness_FaultOrderInEx :
    ({ IdEx.bubble with ctl := { nopCtl with fault := some .undefinedFlags } } : IdEx).ctl.fault = some .undefinedFlags ∧
      (controlRow .add false).fault = none ∧ (controlRow .add false).usesA = true ∧
      (controlRow .add false).usesB = true ∧
      RegVal.undef.word? = none ∧ (RegVal.ofWord 5).word?.isSome = true ∧
      (controlRow .li false).usesA = false ∧ (controlRow .li false).usesB = false := by decide

theorem witness_WriteBackStageRules :
    (liInWb.memwb.ctl.wben = true ∧ liInWb.memwb.selC = some 1) ∧
      ¬(liInWb.memwb.ctl.wben = true ∧ liInWb.memwb.selC = some 2) ∧
      Latches liInWb := by unfold Latches; decide

theorem witness_HaltTakesEffectInEx :
    AtCycle hltInEx ∧ Latches hltInEx ∧ hltInEx.idex.ctl.hlt = true := by unfold AtCycle Latches; decide

theorem witness_PipelineRunsOneInstructionAsExec :
    addAtZero.rst = false ∧ addAtZero.faulted = none ∧
      addAtZero.pipelineIdle = true ∧
      Memory.readWord addAtZero.imem 0 = .ofWord 0x3B28 ∧ decode 0x3B28 = .ok (.add 3 1 2) ∧
      Memory.readWord addAtZero.imem 1 = .ofWord 0 ∧ decode 0 = .ok .nop ∧
      Memory.readWord addAtZero.imem 2 = .ofWord 0 ∧
      ∃ t, exec (.add 3 1 2) { addAtZero with ir := 0x3B28 } = .next t := by
  refine ⟨by decide, by decide, by decide, by decide, by decide, by decide, by decide, by decide, _, rfl⟩

theorem witness_PipelineRunsOneInstructionAsExec_jump :
    (cycles (booted [0xA000, 0, 0]) 2).idex.ctl.j = true ∧ (cycles addAtZero 2).idex.ctl.j = false ∧
      ∃ t, exec (.jmp 0) (booted [0xA000, 0, 0]) = .next t := ⟨by decide, by decide, _, rfl⟩

end Sys2Proof.Tests
end

namespace Sys2Proof.Machine

-- How an instruction ends ---------------------------------------------------------------------------------

/-- The ways an instruction executed in `s` can complete, by the operation of Machine/Ops.lean that ends it. -/
inductive Ending (s : State) : State → Prop
  | skip : Ending s s.skip
  | halt : Ending s s.halt
  | load (e : Word) (rd : RegSel) (v : RegVal) : Ending s ((s.afterLoad e).commit rd v)
  | store (e v : Word) : Ending s (((s.noteStale e).storeWord e v).retire none)
  | commit (rd : RegSel) (v : RegVal) : Ending s (s.commit rd v)
  | commitAlu (rd : RegSel) (o : AluOut) : Ending s (s.commitAlu rd o)
  | commitFlags (o : AluOut) : Ending s (s.commitFlags o)
  | jump (target : Word) : Ending s (s.jumpTo target)
  | link (rd : RegSel) (v : RegVal) (target : Word) : Ending s ((s.setReg rd v).jumpTo target)
  | fallThrough : Ending s (s.retire none)

/-- Every instruction that completes ends in one of the ways of `Ending`. -/
theorem exec_ending {i : Instr} {s t : State} (h : exec i s = .next t) : Ending s t := by
  cases i
  case nop => cases h; exact .skip
  case hlt => cases h; exact .halt
  case li | lui => cases h; exact .commit _ _
  case jmp => cases h; exact .jump _
  case load =>
    obtain ⟨base, -, h⟩ := State.useReg_next.mp h
    cases h; exact .load _ _ _
  case store =>
    obtain ⟨base, -, h⟩ := State.useReg_next.mp h
    obtain ⟨v, -, h⟩ := State.useReg_next.mp h
    cases h; exact .store _ _
  case add | sub | and | or | xor =>
    obtain ⟨a, b, -, -, h⟩ := State.useRegs_next.mp h
    cases h; exact .commitAlu _ _
  case adc | sbc =>
    obtain ⟨c, -, h⟩ := State.useFlag_next.mp h
    obtain ⟨a, b, -, -, h⟩ := State.useRegs_next.mp h
    cases h; exact .commitAlu _ _
  case not | addi | subi | andi | ori | xori =>
    obtain ⟨a, -, h⟩ := State.useReg_next.mp h
    cases h; exact .commitAlu _ _
  case cmp =>
    obtain ⟨a, b, -, -, h⟩ := State.useRegs_next.mp h
    cases h; exact .commitFlags _
  case cmpi =>
    obtain ⟨a, -, h⟩ := State.useReg_next.mp h
    cases h; exact .commitFlags _
  case jr =>
    obtain ⟨a, -, h⟩ := State.useReg_next.mp h
    cases h; exact .jump _
  case jalr =>
    obtain ⟨a, -, h⟩ := State.useReg_next.mp h
    cases h; exact .link _ _ _
  case beq | bne | blt | bgt | bltu | bgtu =>
    obtain ⟨-, rfl⟩ | ⟨-, rfl⟩ := State.branch_next.mp h
    · exact .jump _
    · exact .fallThrough

/-- No instruction touches the hidden state, but for `halted`. -/
theorem exec_sameHidden {i : Instr} {s t : State} (h : exec i s = .next t) :
    SameHidden { s with halted := t.halted } t := by
  cases exec_ending h <;> simp [SameHidden]

/-- Executing an instruction puts nothing in flight and takes nothing out. -/
theorem exec_pipelineIdle {i : Instr} {s t : State} (h : exec i s = .next t) :
    t.pipelineIdle = s.pipelineIdle := by
  obtain ⟨hifid, hidex, hexmem, hmemwb, -⟩ := exec_sameHidden h
  simp only [State.pipelineIdle, hifid, hidex, hexmem, hmemwb]

-- Fetching ------------------------------------------------------------------------------------------------

@[simp] theorem State.beginInstr_pipelineIdle (s : State) (w : Word) :
    (s.beginInstr w).pipelineIdle = s.pipelineIdle := rfl

/-- With no rewritten word pending, the word in instruction memory is the only candidate (R143). -/
theorem State.fetchCandidates_of_no_stale {s : State} (h : s.stale = []) :
    s.fetchCandidates = [(Memory.readWord s.imem s.pc).word?] := by
  simp [State.fetchCandidates, h]

/-- With no rewritten word pending, the word in instruction memory is fetched. -/
theorem State.fetchWord_of_no_stale {s : State} (h : s.stale = []) :
    s.fetchWord = (Memory.readWord s.imem s.pc).word? := by
  simp [State.fetchWord, State.fetchCandidates_of_no_stale h]

/-- With no rewritten word pending, beginning an instruction puts its word in `ir` and does nothing else. -/
theorem State.beginInstr_of_no_stale {s : State} (h : s.stale = []) (w : Word) :
    s.beginInstr w = { s with ir := w } := by
  simp [State.beginInstr, State.fetchCandidates_of_no_stale h, h]

-- Steps ---------------------------------------------------------------------------------------------------

/-- Where the instruction level may run, the gate lets the step through to it. -/
theorem step_of_atInstruction {s : State} (h : AtInstruction s) : step s = stepInstruction s := by
  obtain ⟨hrst, hfaulted, hhalted, hready, hlevel, -⟩ := h
  simp [step, State.gate, hrst, hfaulted, hhalted, hready, hlevel]

/-- A decodable word that is fetched with nothing in flight is executed. -/
theorem stepInstruction_of_decode {s : State} {w : Word} {i : Instr} (hidle : s.pipelineIdle = true)
    (hw : s.fetchWord = some w) (hi : decode w = .ok i) :
    stepInstruction s = exec i (s.beginInstr w) := by
  simp [stepInstruction, hidle, hw, hi]

@[simp] theorem State.resetCycle_pipelineIdle (s : State) : s.resetCycle.pipelineIdle = true := by
  simp [State.pipelineIdle, IfId.bubble, IdEx.bubble, ExMem.bubble, MemWb.bubble]

/-- A clock cycle does not change the level at which the machine is stepped. -/
@[simp] theorem cycle_stepping (s : State) : (cycle s).stepping = s.stepping := by
  obtain ⟨_, -, h⟩ | ⟨m, _, hm, -, h⟩ | ⟨m, _, hm, -, h⟩ := cycle_cases s
  · simp [h]
  all_goals
    obtain ⟨-, -, -, -, -, -, hlevel, -⟩ := memStage_after hm
    simp [h, hlevel]

-- The obligations -----------------------------------------------------------------------------------------

/-- Settles O7: the gate lets the step through, and the one candidate of a fetch with nothing pending is the word in
memory. -/
theorem stepRunsTheDecodedInstruction : Obligations.StepRunsTheDecodedInstruction := by
  refine ⟨fun s w i hat hw hi => ?_, fun s w hstale hmem => ⟨?_, ?_⟩⟩
  · have ⟨_, _, _, _, _, hidle⟩ := hat
    rw [step_of_atInstruction hat, stepInstruction_of_decode hidle hw hi]
  · rw [State.fetchWord_of_no_stale hstale, hmem, RegVal.word?_ofWord]
  · exact State.beginInstr_of_no_stale hstale w

/-- Settles O43, by the cases of a step: reset empties the pipeline, an instruction leaves it as it is, and a clock cycle
leaves the machine at the cycle level. The premise on `s` is not needed: the
instruction level refuses a step with something in flight. -/
theorem instructionLevelStaysIdle : Obligations.InstructionLevelStaysIdle := by
  intro s t _ hstep hlevel
  obtain ⟨-, rfl⟩ | ⟨-, -, -, -, ⟨-, hidle, w, i, -, -, hexec⟩ | ⟨hcycle, rfl⟩⟩ := step_next hstep
  · exact s.resetCycle_pipelineIdle
  · rw [exec_pipelineIdle hexec, State.beginInstr_pipelineIdle, hidle]
  · rw [cycle_stepping, hcycle] at hlevel
    cases hlevel

end Sys2Proof.Machine

namespace Sys2Proof.Machine

-- Which registers an instruction writes -------------------------------------------------------------------

/-- What an instruction other than HLT, which may undo the write before it (R115), does to the register file: it sets its
destination's register where it has one, and nothing otherwise. -/
theorem exec_regs {i : Instr} {s t : State} (hhlt : i ≠ .hlt) (h : exec i s = .next t) :
    (destination i = none ∧ t.regs = s.regs) ∨
      ∃ rd v, destination i = some rd ∧ t.regs = setRegOf s.regs rd v := by
  cases i
  case hlt => exact absurd rfl hhlt
  case nop | jmp => cases h; exact .inl ⟨rfl, rfl⟩
  case li | lui => cases h; exact .inr ⟨_, _, rfl, State.commit_regs ..⟩
  case load =>
    obtain ⟨base, -, h⟩ := State.useReg_next.mp h
    cases h; exact .inr ⟨_, _, rfl, by rw [State.commit_regs, State.afterLoad_regs]⟩
  case store =>
    obtain ⟨base, -, h⟩ := State.useReg_next.mp h
    obtain ⟨v, -, h⟩ := State.useReg_next.mp h
    cases h; exact .inl ⟨rfl, by simp⟩
  case add | sub | and | or | xor =>
    obtain ⟨a, b, -, -, h⟩ := State.useRegs_next.mp h
    cases h; exact .inr ⟨_, _, rfl, State.commitAlu_regs ..⟩
  case adc | sbc =>
    obtain ⟨c, -, h⟩ := State.useFlag_next.mp h
    obtain ⟨a, b, -, -, h⟩ := State.useRegs_next.mp h
    cases h; exact .inr ⟨_, _, rfl, State.commitAlu_regs ..⟩
  case not | addi | subi | andi | ori | xori =>
    obtain ⟨a, -, h⟩ := State.useReg_next.mp h
    cases h; exact .inr ⟨_, _, rfl, State.commitAlu_regs ..⟩
  case cmp =>
    obtain ⟨a, b, -, -, h⟩ := State.useRegs_next.mp h
    cases h; exact .inl ⟨rfl, State.commitFlags_regs ..⟩
  case cmpi =>
    obtain ⟨a, -, h⟩ := State.useReg_next.mp h
    cases h; exact .inl ⟨rfl, State.commitFlags_regs ..⟩
  case jr =>
    obtain ⟨a, -, h⟩ := State.useReg_next.mp h
    cases h; exact .inl ⟨rfl, State.jumpTo_regs ..⟩
  case jalr =>
    obtain ⟨a, -, h⟩ := State.useReg_next.mp h
    cases h; exact .inr ⟨_, _, rfl, by rw [State.jumpTo_regs, State.setReg_regs]⟩
  case beq | bne | blt | bgt | bltu | bgtu =>
    obtain ⟨-, rfl⟩ | ⟨-, rfl⟩ := State.branch_next.mp h
    · exact .inl ⟨rfl, State.jumpTo_regs ..⟩
    · exact .inl ⟨rfl, State.retire_regs ..⟩

/-- Settles O39, from what each instruction does to the register file. -/
theorem onlyTheDestinationIsWritten : Obligations.OnlyTheDestinationIsWritten := by
  intro i s t hhlt h r hr
  obtain ⟨-, hregs⟩ | ⟨rd, v, hdest, hregs⟩ := exec_regs hhlt h
  · rw [State.reg_eq, State.reg_eq, hregs]
  · have hne : r ≠ rd := fun he => hr (by rw [hdest, he])
    rw [State.reg_eq, State.reg_eq, hregs, regOf_setRegOf, if_neg hne]

-- Halt, reset and `ready` ---------------------------------------------------------------------------------

/-- A cycle that raises no fault is one in which MEM and EX both answer, and it latches what they give (R131). -/
theorem cycle_of_latches {s : State} (h : Latches s) :
    ∃ m x, memStage (wbStage s) = .ok m ∧ exStage s.pc s.idex = .ok x ∧ cycle s = latch s m x := by
  obtain ⟨-, hfault⟩ := h
  obtain ⟨_, -, hc⟩ | ⟨m, f, -, -, hc⟩ | hlatch := cycle_cases s
  · simp [hc] at hfault
  · simp [hc] at hfault
  · exact hlatch

/-- What the gate answers is what the step answers. -/
theorem step_of_gate {s : State} {r : Result} (h : s.gate = some r) : step s = r := by
  simp [step, h]

/-- With `rst` asserted a step is a reset cycle (R129). -/
theorem step_of_rst {s : State} (h : s.rst = true) : step s = .next s.resetCycle :=
  step_of_gate (by simp [State.gate, h])

/-- Settles O10: a cycle latches HLT's control bit into `halted`, a reset cycle clears it, and a step that gives a next state is a
reset cycle or starts with `halted` clear. -/
theorem haltedBitRules : Obligations.HaltedBitRules := by
  refine ⟨fun s hlatches => ?_, fun s hrst => ?_, fun s t hhalted hrst hstep => ?_⟩
  · obtain ⟨m, x, -, -, hcycle⟩ := cycle_of_latches hlatches
    rw [hcycle, latch_halted]
  · exact ⟨_, step_of_rst hrst, s.resetCycle_halted⟩
  · obtain ⟨hrst', -⟩ | ⟨-, -, hhalted', -⟩ := step_next hstep
    · simp [hrst] at hrst'
    · simp [hhalted] at hhalted'

/-- Settles O11: past the reset and the two stops, the gate looks at `ready`. -/
theorem inactiveReadyIsRefused : Obligations.InactiveReadyIsRefused := by
  intro s hrst hfaulted hhalted hready
  exact step_of_gate (by simp [State.gate, hrst, hfaulted, hhalted, hready])

-- The reset state -----------------------------------------------------------------------------------------

@[simp] theorem regOf_replicate (v : RegVal) (i : RegSel) : regOf (Vector.replicate 8 v) i = v := by
  simp [regOf]

/-- Every register of the reset state holds the model's reset value. -/
@[simp] theorem State.reg_reset (i : RegSel) : State.reset.reg i = Config.resetRegister :=
  regOf_replicate _ i

/-- A word of a memory that lists nothing is undefined (R39). -/
@[simp] theorem Memory.readWord_nil (a : Word) : Memory.readWord [] a = .undef := rfl

/-- Settles O12: each clause is one entry of the reset table. -/
theorem resetStateByTheTable : Obligations.ResetStateByTheTable :=
  ⟨rfl, rfl, rfl, rfl, rfl, rfl, rfl, rfl, rfl, State.reg_reset, rfl,
    fun a => ⟨Memory.readWord_nil a, Memory.readWord_nil a⟩⟩

/-- A reset cycle leaves the reset state as it is (R129). -/
theorem State.reset_resetCycle : State.reset.resetCycle = State.reset := rfl

/-- Nothing is in flight in the reset state. -/
theorem State.reset_pipelineIdle : State.reset.pipelineIdle = true := by
  rw [← State.reset_resetCycle, State.resetCycle_pipelineIdle]

-- The invariants at rest ----------------------------------------------------------------------------------

/-- The NOP control word keeps R69. -/
theorem nopCtl_sound : nopCtl.sound = true := rfl

/-- A bubble in ID/EX is sound: it asks for no access and no jump. -/
theorem soundIdEx_bubble : SoundIdEx .bubble :=
  ⟨nopCtl_sound, fun _ h => absurd h (by decide), fun _ h => absurd h (by decide)⟩

/-- A bubble in EX/MEM is sound: it asks for no access. -/
theorem soundExMem_bubble : SoundExMem .bubble :=
  ⟨nopCtl_sound, fun h => absurd h (by decide), fun h => absurd h (by decide)⟩

/-- Where no fault is recorded, no internal error is. -/
theorem noInternalError_none : NoInternalError none := by
  intro cause site h
  cases h

/-- Settles O44: the memories and the rewritten words are empty, every pipeline register holds a bubble, and no fault is
recorded. -/
theorem resetMeetsTheInvariants : Obligations.ResetMeetsTheInvariants := by
  refine ⟨⟨Memory.wf_nil, Memory.wf_nil⟩, fun _ => State.reset_pipelineIdle,
    ⟨soundIdEx_bubble, soundExMem_bubble, noInternalError_none⟩, fun x hx => ?_⟩
  cases hx

end Sys2Proof.Machine

namespace Sys2Proof.Machine

-- Canonical memories --------------------------------------------------------------------------------------

/-- The canonical form looks at the two memories alone. -/
theorem MemoriesCanonical.congr {s t : State} (himem : t.imem = s.imem) (hdmem : t.dmem = s.dmem)
    (h : MemoriesCanonical s) : MemoriesCanonical t := by
  rwa [MemoriesCanonical, himem, hdmem]

/-- An instruction keeps both memories in canonical form: only a STORE writes them, a word at a time. -/
theorem exec_memoriesCanonical {i : Instr} {s t : State} (h : exec i s = .next t)
    (hs : MemoriesCanonical s) : MemoriesCanonical t := by
  cases exec_ending h
  case store e v =>
    have hnoted : MemoriesCanonical (s.noteStale e) := hs.congr (by simp) (by simp)
    exact (State.storeWord_wf e v hnoted).congr (by simp) (by simp)
  all_goals exact hs.congr (by simp) (by simp)

/-- MEM keeps both memories in canonical form (R133). -/
theorem memStage_memoriesCanonical {s : State} {m : MemOut} (h : memStage s = .ok m)
    (hs : MemoriesCanonical s) : MemoriesCanonical m.after := by
  obtain ⟨-, ⟨-, e, -, rfl⟩ | ⟨-, -, e, v, -, -, rfl⟩ | ⟨-, -, rfl⟩⟩ := memStage_ok h
  · exact hs.congr (State.afterLoad_imem s e) (State.afterLoad_dmem s e)
  · exact State.storeWord_wf e v hs
  · exact hs

/-- A clock cycle keeps both memories in canonical form: no stage but MEM writes them. -/
theorem cycle_memoriesCanonical {s : State} (hs : MemoriesCanonical s) : MemoriesCanonical (cycle s) := by
  have hwb : MemoriesCanonical (wbStage s) := hs.congr (wbStage_imem s) (wbStage_dmem s)
  obtain ⟨_, -, h⟩ | ⟨m, _, hm, -, h⟩ | ⟨m, _, hm, -, h⟩ := cycle_cases s <;> rw [h]
  · exact hwb.congr (State.stopWith_imem ..) (State.stopWith_dmem ..)
  · exact (memStage_memoriesCanonical hm hwb).congr (State.stopWith_imem ..) (State.stopWith_dmem ..)
  · exact (memStage_memoriesCanonical hm hwb).congr (latch_imem ..) (latch_dmem ..)

/-- Settles O42, by the cases of a step: reset keeps the memories, and an instruction and a clock cycle write them a word
at a time. -/
theorem stepKeepsMemoriesCanonical : Obligations.StepKeepsMemoriesCanonical := by
  intro s t hs hstep
  obtain ⟨-, rfl⟩ | ⟨-, -, -, -, ⟨-, -, w, i, -, -, hexec⟩ | ⟨-, rfl⟩⟩ := step_next hstep
  · exact hs.congr s.resetCycle_imem s.resetCycle_dmem
  · exact exec_memoriesCanonical hexec (hs.congr (s.beginInstr_imem w) (s.beginInstr_dmem w))
  · exact cycle_memoriesCanonical hs

-- Words of memory -----------------------------------------------------------------------------------------

/-- A word after a word was written: the word itself, or one whose two cells the write leaves alone (R42, R47). -/
theorem Memory.readWord_writeWord (m : Memory) (a b w : Word) :
    Memory.readWord (Memory.writeWord m a w) b = if b = a then .ofWord w else Memory.readWord m b := by
  split
  · next h =>
    subst h
    simp [Memory.readWord, Memory.readByte_writeWord, RegVal.ofWord]
  · next h =>
    have hne : b.toNat ≠ a.toNat := mt BitVec.eq_of_toNat_eq h
    rw [Memory.readWord, Memory.readByte_writeWord_other _ _ _ _ (by omega),
      Memory.readByte_writeWord_other _ _ _ _ (by omega), Memory.readWord]

@[simp] theorem Memory.readWord_writeWord_same (m : Memory) (a w : Word) :
    Memory.readWord (Memory.writeWord m a w) a = .ofWord w := by
  rw [Memory.readWord_writeWord, if_pos rfl]

/-- A cell outside the two of the word written is unchanged. -/
theorem Memory.readByte_writeWord_of_ne (m : Memory) {a w : Word} {k : Nat} (hlo : k ≠ 2 * a.toNat)
    (hhi : k ≠ 2 * a.toNat + 1) : Memory.readByte (Memory.writeWord m a w) k = Memory.readByte m k := by
  rw [Memory.readByte_writeWord, if_neg hlo, if_neg hhi]

/-- Settles O28. -/
theorem memoryWordReadsBack : Obligations.MemoryWordReadsBack := Memory.readWord_writeWord

-- STORE through IMEM_ALIAS --------------------------------------------------------------------------------

/-- The effective address of LOAD and STORE, and the target of an absolute jump, as R43 and R101 write it. -/
theorem baseOffset_eq (base : Word) (imm : BitVec 5) : baseOffset base imm = base + imm.signExtend 16 := rfl

/-- STORE with both operands defined (R97). -/
theorem exec_store_of_defined {s : State} {rb ra : RegSel} {imm : BitVec 5} {base v : Word}
    (hbase : (s.reg ra).word? = some base) (hv : (s.reg rb).word? = some v) :
    exec (.store rb ra imm) s =
      .next (((s.noteStale (baseOffset base imm)).storeWord (baseOffset base imm) v).retire none) :=
  (State.useReg_of_word hbase _).trans (State.useReg_of_word hv _)

/-- A store where IMEM_ALIAS is defined notes the word that it replaces (R143) and writes instruction memory, and data
memory where the platform says so (R46). -/
theorem State.storeWord_noteStale_of_alias {s : State} {e a : Word} (h : s.platform.aliasOf e = some a) (v : Word) :
    (s.noteStale e).storeWord e v =
      { s with
        imem := Memory.writeWord s.imem a v
        dmem := if s.platform.aliasWritesData then Memory.writeWord s.dmem e v else s.dmem
        stale := s.stale ++ [⟨a, (Memory.readWord s.imem a).word?, 2⟩] } := by
  simp [State.storeWord, State.noteStale, h]

/-- Settles O25: IMEM_ALIAS decides before IO_MAP is looked at, and the two memory writes read back as words. -/
theorem storeThroughAliasResult : Obligations.StoreThroughAliasResult := by
  intro s rb ra imm base v e a hbase hv he halias
  subst he
  refine ⟨_, exec_store_of_defined hbase hv, ?_⟩
  rw [baseOffset_eq, State.storeWord_noteStale_of_alias halias]
  refine ⟨Memory.readWord_writeWord_same .., fun k => Memory.readByte_writeWord_of_ne _, fun hdata => ?_,
    fun k hk => ?_, rfl, rfl, rfl, rfl, fun _ _ => rfl,
    ⟨rfl, rfl, rfl, rfl, rfl, rfl, rfl, rfl, rfl, rfl, rfl, rfl⟩, rfl, rfl, rfl⟩
  · simp [hdata]
  · obtain hdata | ⟨hlo, hhi⟩ := hk
    · simp [hdata]
    · simp only [State.retire_dmem]
      split
      · exact Memory.readByte_writeWord_of_ne _ hlo hhi
      · rfl

-- What an instruction does to memory and devices ----------------------------------------------------------

/-- Both memories, the event history and the count of device draws are as they were. -/
def SameStorage (s t : State) : Prop :=
  t.imem = s.imem ∧ t.dmem = s.dmem ∧ t.events = s.events ∧ t.draws = s.draws

/-- An instruction other than LOAD and STORE touches no memory and no device (R42). -/
theorem exec_sameStorage {i : Instr} {s t : State} (hload : ∀ rd ra imm, i ≠ .load rd ra imm)
    (hstore : ∀ rb ra imm, i ≠ .store rb ra imm) (h : exec i s = .next t) : SameStorage s t := by
  cases i
  case load => exact absurd rfl (hload _ _ _)
  case store => exact absurd rfl (hstore _ _ _)
  case nop | hlt | li | lui | jmp => cases h; simp [SameStorage]
  case add | sub | and | or | xor | cmp =>
    obtain ⟨a, b, -, -, h⟩ := State.useRegs_next.mp h
    cases h; simp [SameStorage]
  case adc | sbc =>
    obtain ⟨c, -, h⟩ := State.useFlag_next.mp h
    obtain ⟨a, b, -, -, h⟩ := State.useRegs_next.mp h
    cases h; simp [SameStorage]
  case not | addi | subi | andi | ori | xori | cmpi | jr | jalr =>
    obtain ⟨a, -, h⟩ := State.useReg_next.mp h
    cases h; simp [SameStorage]
  case beq | bne | blt | bgt | bltu | bgtu =>
    obtain ⟨-, rfl⟩ | ⟨-, rfl⟩ := State.branch_next.mp h <;> simp [SameStorage]

/-- Memories that are as they were read as they did. -/
theorem sameMemory_of_eq {s t : State} (himem : t.imem = s.imem) (hdmem : t.dmem = s.dmem) :
    SameMemory s t := fun k => by rw [himem, hdmem]; exact ⟨rfl, rfl⟩

/-- Settles O40: a LOAD writes no memory and a STORE makes no draw; no other instruction touches either. -/
theorem onlyStoreWritesMemory : Obligations.OnlyStoreWritesMemory := by
  intro i s t h
  by_cases hload : ∃ rd ra imm, i = .load rd ra imm
  · obtain ⟨rd, ra, imm, rfl⟩ := hload
    obtain ⟨base, -, h⟩ := State.useReg_next.mp h
    cases h
    exact ⟨fun _ => ⟨sameMemory_of_eq (by simp) (by simp), by simp⟩, fun hne => absurd rfl (hne rd ra imm)⟩
  by_cases hstore : ∃ rb ra imm, i = .store rb ra imm
  · obtain ⟨rb, ra, imm, rfl⟩ := hstore
    obtain ⟨base, -, h⟩ := State.useReg_next.mp h
    obtain ⟨v, -, h⟩ := State.useReg_next.mp h
    cases h
    exact ⟨fun hne => absurd rfl (hne rb ra imm), fun _ => by simp⟩
  push Not at hload hstore
  obtain ⟨himem, hdmem, hevents, hdraws⟩ := exec_sameStorage hload hstore h
  exact ⟨fun _ => ⟨sameMemory_of_eq himem hdmem, hevents⟩, fun _ => hdraws⟩

-- Undefined operands --------------------------------------------------------------------------------------

/-- Of two operands the left one is checked first (R119). -/
theorem State.useRegs_of_none_left {s : State} {ra : RegSel} (h : (s.reg ra).word? = none) (rb : RegSel)
    (k : Word → Word → Result) : s.useRegs ra rb k = .fault (.undefinedRegister ra s.site) :=
  State.useReg_of_none h _

/-- With the left operand defined, an undefined right one faults (R119). -/
theorem State.useRegs_of_none_right {s : State} {ra rb : RegSel} (ha : (s.reg ra).word?.isSome = true)
    (hb : (s.reg rb).word? = none) (k : Word → Word → Result) :
    s.useRegs ra rb k = .fault (.undefinedRegister rb s.site) := by
  obtain ⟨a, ha⟩ := Option.isSome_iff_exists.mp ha
  exact (State.useReg_of_word ha _).trans (State.useReg_of_none hb _)

/-- An instruction whose flags are defined faults on an undefined port A (R21, R119). -/
theorem exec_of_portA_undefined {i : Instr} {s : State} {r : RegSel}
    (hflags : flagRead i.mnemonic s.flags ≠ some none) (hport : portA i = some r)
    (hundef : (s.reg r).word? = none) : exec i s = .fault (.undefinedRegister r s.site) := by
  cases i <;> cases hport
  case adc | sbc =>
    obtain ⟨c, hc⟩ := Option.ne_none_iff_exists'.mp (fun hc => hflags (congrArg some hc))
    exact (State.useFlag_of_some hc _).trans (State.useRegs_of_none_left hundef _ _)
  case cmp | add | sub | and | or | xor => exact State.useRegs_of_none_left hundef _ _
  all_goals exact State.useReg_of_none hundef _

/-- An instruction whose flags and port A are defined faults on an undefined port B (R21, R119). -/
theorem exec_of_portB_undefined {i : Instr} {s : State} {r : RegSel}
    (hflags : flagRead i.mnemonic s.flags ≠ some none) (hA : Defined s (portA i)) (hport : portB i = some r)
    (hundef : (s.reg r).word? = none) : exec i s = .fault (.undefinedRegister r s.site) := by
  cases i <;> cases hport
  case adc | sbc =>
    obtain ⟨c, hc⟩ := Option.ne_none_iff_exists'.mp (fun hc => hflags (congrArg some hc))
    exact (State.useFlag_of_some hc _).trans (State.useRegs_of_none_right (hA _ rfl) hundef _)
  case store | cmp | add | sub | and | or | xor => exact State.useRegs_of_none_right (hA _ rfl) hundef _

/-- A load outside IO_MAP gives the data word (R96). -/
theorem State.loadValue_of_not_device {s : State} {e : Word} (h : s.platform.isDevice e = false) :
    s.loadValue e = Memory.readWord s.dmem e := by
  simp [State.loadValue, h]

/-- Settles O27: the load puts the undefined word in `rd`, so an instruction that uses `rd` finds it undefined. -/
theorem undefinedDataFaultsOnUse : Obligations.UndefinedDataFaultsOnUse := by
  intro s rd ra imm base hbase hdevice hundef
  refine ⟨_, State.useReg_of_word hbase _, fun i hflags => ?_⟩
  have hvalue : (s.loadValue (baseOffset base imm)).word? = none := by
    rw [baseOffset_eq, State.loadValue_of_not_device hdevice, hundef]
  have hrd : ∀ u : State, ((u.commit rd (s.loadValue (baseOffset base imm))).reg rd).word? = none := by
    simp [hvalue]
  exact ⟨fun hport => exec_of_portA_undefined hflags hport (hrd _),
    fun hport hA => exec_of_portB_undefined hflags hA hport (hrd _)⟩

-- The word that a step runs -------------------------------------------------------------------------------

/-- A fetched word that does not decode is refused (R116). -/
theorem stepInstruction_of_decode_error {s : State} {w : Word} {e : DecodeError} (hidle : s.pipelineIdle = true)
    (hw : s.fetchWord = some w) (he : decode w = .error e) :
    stepInstruction s = .fault (s.decodeFault w e) := by
  simp [stepInstruction, hidle, hw, he]

/-- An undefined word that is fetched faults when it is executed (R39, R68). -/
theorem stepInstruction_of_undefined {s : State} (hidle : s.pipelineIdle = true) (hw : s.fetchWord = none) :
    stepInstruction s = .fault s.undefinedWordFault := by
  simp [stepInstruction, hidle, hw]

/-- With a word placed at PC the instruction level may run. -/
theorem State.withFetchWord_atInstruction (s : State) (nbits w : Nat) :
    AtInstruction (s.withFetchWord nbits w) :=
  ⟨rfl, rfl, rfl, rfl, rfl, by simp [State.pipelineIdle, IfId.bubble, IdEx.bubble, ExMem.bubble, MemWb.bubble]⟩

/-- The word placed at PC is the one fetched. -/
theorem State.withFetchWord_fetchWord (s : State) (w : Word) :
    (s.withFetchWord 16 w.toNat).fetchWord = some w := by
  rw [State.fetchWord_of_no_stale (State.withFetchWord_stale ..), State.withFetchWord_imem, Nat.mod_eq_of_lt w.isLt]
  simp

/-- Settles O8: the placed word is the one fetched, and the gate, the pipeline and the rewritten words stand in no way. -/
theorem placedWordRunsNext : Obligations.PlacedWordRunsNext := by
  rintro s w p rfl
  have hat := s.withFetchWord_atInstruction 16 w.toNat
  have ⟨_, _, _, _, _, hidle⟩ := hat
  have hw := s.withFetchWord_fetchWord w
  refine ⟨fun i hi => ?_, fun op he => ?_⟩
  · rw [step_of_atInstruction hat, stepInstruction_of_decode hidle hw hi,
      State.beginInstr_of_no_stale (State.withFetchWord_stale ..)]
  · rw [step_of_atInstruction hat, stepInstruction_of_decode_error hidle hw he]
    rfl

/-- Settles O9: with no rewritten word pending, the undefined word at PC is the one fetched. -/
theorem undefinedInstructionWordFaults : Obligations.UndefinedInstructionWordFaults := by
  intro s hat hstale hundef
  have ⟨_, _, _, _, _, hidle⟩ := hat
  have hw : s.fetchWord = none := by rw [State.fetchWord_of_no_stale hstale, hundef]
  rw [step_of_atInstruction hat, stepInstruction_of_undefined hidle hw]
  rfl

end Sys2Proof.Machine

namespace Sys2Proof

-- Ignored bits ---------------------------------------------------------------------------------------------

/-- A field that a mask covers is 0 in a word that is clear under the mask. -/
theorem field_eq_zero_of_mask {w mask : Word} {lo len : Nat} (hw : w &&& mask = 0)
    (hmask : mask.extractLsb' lo len = BitVec.allOnes len) : w.extractLsb' lo len = 0 := by
  have hfield : w.extractLsb' lo len &&& mask.extractLsb' lo len = 0 := by
    rw [← BitVec.extractLsb'_and, hw]
    simp
  rwa [hmask, BitVec.and_allOnes] at hfield

/-- Flipping bits under a mask leaves a field that lies outside the mask. -/
theorem field_flip_of_mask (w v : Word) {mask : Word} {lo len : Nat} (hmask : mask.extractLsb' lo len = 0) :
    (w ^^^ (v &&& mask)).extractLsb' lo len = w.extractLsb' lo len := by
  rw [BitVec.extractLsb'_xor, BitVec.extractLsb'_and, hmask]
  simp

/-- No format ignores an opcode bit (R55). -/
@[simp] theorem opField_flip_ignored (w v : Word) (f : Format) :
    opField (w ^^^ (v &&& f.ignoredMask)) = opField w :=
  field_flip_of_mask w v (by cases f <;> decide)

/-- The bits that a mnemonic's format ignores are in none of its operands (R55). -/
@[simp] theorem operandsOf_flip_ignored (m : Mnemonic) (w v : Word) :
    operandsOf m (w ^^^ (v &&& m.format.ignoredMask)) = operandsOf m w := by
  have hC {mask : Word} (h : selC mask = 0) : selC (w ^^^ (v &&& mask)) = selC w := field_flip_of_mask w v h
  have hA {mask : Word} (h : selA mask = 0) : selA (w ^^^ (v &&& mask)) = selA w := field_flip_of_mask w v h
  have hB {mask : Word} (h : selB mask = 0) : selB (w ^^^ (v &&& mask)) = selB w := field_flip_of_mask w v h
  have hI {mask : Word} (h : imm5Field mask = 0) : imm5Field (w ^^^ (v &&& mask)) = imm5Field w :=
    field_flip_of_mask w v h
  cases m
  case nop | hlt => rfl
  case add | sub | and | or | xor | adc | sbc =>
    simp only [operandsOf, Mnemonic.format, Format.ignoredMask, hC (mask := 0x0003) rfl, hA (mask := 0x0003) rfl,
      hB (mask := 0x0003) rfl]
  case not =>
    simp only [operandsOf, Mnemonic.format, Format.ignoredMask, hC (mask := 0x001F) rfl, hA (mask := 0x001F) rfl]
  case cmp =>
    simp only [operandsOf, Mnemonic.format, Format.ignoredMask, hA (mask := 0x0703) rfl, hB (mask := 0x0703) rfl]
  case cmpi | jr =>
    simp only [operandsOf, Mnemonic.format, Format.ignoredMask, hA (mask := 0x0700) rfl, hI (mask := 0x0700) rfl]
  all_goals simp [Mnemonic.format, Format.ignoredMask]

-- A word put together from its fields ----------------------------------------------------------------------

/-- Two neighbouring fields are one field. -/
theorem field_append_field (w : Word) (lo n k : Nat) :
    w.extractLsb' (lo + k) n ++ w.extractLsb' lo k = w.extractLsb' lo (n + k) :=
  BitVec.extractLsb'_append_extractLsb'_eq_extractLsb' rfl

/-- The five fields of formats N, RRR, RR, CRR and S are the whole word (R54), and so for the other packings below. -/
theorem packRegs_fields (w : Word) :
    packRegs (opField w) (selC w) (selA w) (selB w) (w.extractLsb' 0 2) = w := by
  rw [packRegs, opField, selC, selA, selB, field_append_field w 8 5 3, field_append_field w 5 8 3,
    field_append_field w 2 11 3, field_append_field w 0 14 2]
  exact BitVec.extractLsb'_eq_self

theorem packImm5_fields (w : Word) : packImm5 (opField w) (selC w) (selA w) (imm5Field w) = w := by
  rw [packImm5, opField, selC, selA, imm5Field, field_append_field w 8 5 3, field_append_field w 5 8 3,
    field_append_field w 0 11 5]
  exact BitVec.extractLsb'_eq_self

theorem packImm8_fields (w : Word) : packImm8 (opField w) (selC w) (imm8Field w) = w := by
  rw [packImm8, opField, selC, imm8Field, field_append_field w 8 5 3, field_append_field w 0 8 8]
  exact BitVec.extractLsb'_eq_self

theorem packImm11_fields (w : Word) : packImm11 (opField w) (imm11Field w) = w :=
  (field_append_field w 0 5 11).trans BitVec.extractLsb'_eq_self

/-- The two parts that STORE's split immediate is stored in are the two fields it is read from (R54). -/
theorem imm5sField_parts (w : Word) :
    (imm5sField w).extractLsb' 2 3 = selC w ∧ (imm5sField w).extractLsb' 0 2 = w.extractLsb' 0 2 :=
  ⟨extract_append_high .., extract_append_low ..⟩

/-- Reading the operands of a word and writing them back gives the word, where the bits that its format ignores are 0. -/
theorem encode_operandsOf {w : Word} {m : Mnemonic} (hop : opField w = opcodeOf m)
    (hclear : w &&& m.format.ignoredMask = 0) : encode (operandsOf m w) = w := by
  cases m
  case nop | hlt =>
    have hC : selC w = 0 := field_eq_zero_of_mask hclear rfl
    have hA : selA w = 0 := field_eq_zero_of_mask hclear rfl
    have hB : selB w = 0 := field_eq_zero_of_mask hclear rfl
    have hlow : w.extractLsb' 0 2 = 0 := field_eq_zero_of_mask hclear rfl
    simpa only [operandsOf, encode, hop, hC, hA, hB, hlow] using packRegs_fields w
  case add | sub | and | or | xor | adc | sbc =>
    have hlow : w.extractLsb' 0 2 = 0 := field_eq_zero_of_mask hclear rfl
    simpa only [operandsOf, encode, hop, hlow] using packRegs_fields w
  case not =>
    have hB : selB w = 0 := field_eq_zero_of_mask hclear rfl
    have hlow : w.extractLsb' 0 2 = 0 := field_eq_zero_of_mask hclear rfl
    simpa only [operandsOf, encode, hop, hB, hlow] using packRegs_fields w
  case cmp =>
    have hC : selC w = 0 := field_eq_zero_of_mask hclear rfl
    have hlow : w.extractLsb' 0 2 = 0 := field_eq_zero_of_mask hclear rfl
    simpa only [operandsOf, encode, hop, hC, hlow] using packRegs_fields w
  case cmpi | jr =>
    have hC : selC w = 0 := field_eq_zero_of_mask hclear rfl
    simpa only [operandsOf, encode, hop, hC] using packImm5_fields w
  case store =>
    obtain ⟨hhigh, hlow⟩ := imm5sField_parts w
    simpa only [operandsOf, encode, hop, hhigh, hlow] using packRegs_fields w
  case load | addi | subi | andi | ori | xori | jalr =>
    simpa only [operandsOf, encode, hop] using packImm5_fields w
  case li | lui => simpa only [operandsOf, encode, hop] using packImm8_fields w
  case jmp | beq | bne | blt | bgt | bltu | bgtu =>
    simpa only [operandsOf, encode, hop] using packImm11_fields w

-- The word of an instruction -------------------------------------------------------------------------------

/-- The word of every instruction has the instruction's opcode and is well-formed (R55, R59). -/
theorem encodedWord (i : Instr) : Laws.EncodedWord.Statement i := by
  cases i
  exacts [Laws.EncodedWord.nop, Laws.EncodedWord.hlt, Laws.EncodedWord.load .., Laws.EncodedWord.store ..,
    Laws.EncodedWord.li .., Laws.EncodedWord.lui .., Laws.EncodedWord.cmp .., Laws.EncodedWord.add ..,
    Laws.EncodedWord.sub .., Laws.EncodedWord.and .., Laws.EncodedWord.or .., Laws.EncodedWord.xor ..,
    Laws.EncodedWord.not .., Laws.EncodedWord.cmpi .., Laws.EncodedWord.addi .., Laws.EncodedWord.subi ..,
    Laws.EncodedWord.andi .., Laws.EncodedWord.ori .., Laws.EncodedWord.xori .., Laws.EncodedWord.jmp ..,
    Laws.EncodedWord.jr .., Laws.EncodedWord.jalr .., Laws.EncodedWord.beq .., Laws.EncodedWord.bne ..,
    Laws.EncodedWord.blt .., Laws.EncodedWord.bgt .., Laws.EncodedWord.bltu .., Laws.EncodedWord.bgtu ..,
    Laws.EncodedWord.adc .., Laws.EncodedWord.sbc ..]

/-- The operands read from the word of an instruction are the instruction's own. -/
theorem operandsOf_encode (i : Instr) : operandsOf i.mnemonic (encode i) = i := by
  cases i <;> simp [operandsOf, encode, Instr.mnemonic]

/-- Settles O1: the opcode of the word gives the mnemonic back, and the fields of its format the operands. -/
theorem decodeReadsBackEncode : Obligations.DecodeReadsBackEncode := by
  intro i
  obtain ⟨hop, -⟩ := encodedWord i
  have hm : mnemonicOf (opField (encode i)) = some i.mnemonic := by rw [hop, mnemonicOf_opcodeOf]
  rw [decode_of_mnemonicOf hm, operandsOf_encode]

-- Well-formed words ----------------------------------------------------------------------------------------

/-- A word is well-formed where the opcode map gives its opcode a mnemonic and the bits that the format ignores are 0. -/
theorem wordWellFormed_iff (w : Word) :
    wordWellFormed w = true ↔ ∃ m, mnemonicOf (opField w) = some m ∧ w &&& m.format.ignoredMask = 0 := by
  unfold wordWellFormed wordFlaw
  cases mnemonicOf (opField w) <;> simp

/-- Settles O2: the word of an instruction is well-formed, and a well-formed word is the word of the instruction read
from it. -/
theorem wellFormedWordsAreTheEncodings : Obligations.WellFormedWordsAreTheEncodings := by
  intro w
  constructor
  · intro hwf
    obtain ⟨m, hm, hclear⟩ := (wordWellFormed_iff w).mp hwf
    exact ⟨operandsOf m w, encode_operandsOf (opcodeOf_of_mnemonicOf hm).symm hclear⟩
  · rintro ⟨i, rfl⟩
    obtain ⟨-, hwf⟩ := encodedWord i
    exact hwf

-- What a word decodes to -----------------------------------------------------------------------------------

/-- A word is refused where the opcode map has no row for its opcode. -/
theorem decode_eq_error_iff (w : Word) (e : DecodeError) :
    decode w = .error e ↔ mnemonicOf (opField w) = none ∧ e = .illegalOpcode (opField w) := by
  unfold decode
  cases mnemonicOf (opField w) <;> simp [eq_comm]

/-- Settles O3: the opcodes without a row are 19 and 23. -/
theorem illegalOpcodesAreRefused : Obligations.IllegalOpcodesAreRefused := by
  intro w e
  rw [decode_eq_error_iff, mnemonicOf_eq_none_iff]

/-- Settles O4: ignored bits are neither in the opcode nor in an operand of the format. -/
theorem ignoredBitsHaveNoEffect : Obligations.IgnoredBitsHaveNoEffect := by
  intro w v m hm
  have hflip : mnemonicOf (opField (w ^^^ (v &&& m.format.ignoredMask))) = some m := by
    rw [opField_flip_ignored, hm]
  rw [decode_of_mnemonicOf hflip, decode_of_mnemonicOf hm, operandsOf_flip_ignored]

/-- Settles O5: the map reads opcode 0 as NOP, whose format has no operands. -/
theorem everyOpcodeZeroWordIsNop : Obligations.EveryOpcodeZeroWordIsNop := by
  refine ⟨fun w hop => ?_, by decide, fun s imem target => rfl⟩
  have hm : mnemonicOf (opField w) = some .nop := by rw [opField, hop]; decide
  exact decode_of_mnemonicOf hm

end Sys2Proof

namespace Sys2Proof.Machine

-- The decode table -----------------------------------------------------------------------------------------

/-- While reset is asserted every opcode decodes to NOPCTL (R67). -/
@[simp] theorem decodeControl_of_rst (op : BitVec 5) (f : Flags) : decodeControl op f true = nopCtl := rfl

/-- An opcode without a row decodes to NOPCTL with its fault (R60, R65). -/
theorem decodeControl_of_illegal {op : BitVec 5} (hop : mnemonicOf op = none) (f : Flags) :
    decodeControl op f false = { nopCtl with fault := some (.illegalOpcode op) } := by
  simp [decodeControl, hop]

/-- A row that reads no flag (R65). -/
theorem decodeControl_of_no_flag {op : BitVec 5} {m : Mnemonic} {f : Flags} (hm : mnemonicOf op = some m)
    (hread : flagRead m f = none) : decodeControl op f false = controlRow m false := by
  simp [decodeControl, hm, hread]

/-- A row that reads a defined bit of the flags (R66). -/
theorem decodeControl_of_flag {op : BitVec 5} {m : Mnemonic} {f : Flags} {bit : Bool} (hm : mnemonicOf op = some m)
    (hread : flagRead m f = some (some bit)) : decodeControl op f false = controlRow m bit := by
  simp [decodeControl, hm, hread]

/-- A row that reads an undefined flag (R66, log entry 26). -/
theorem decodeControl_of_undefined_flag {op : BitVec 5} {m : Mnemonic} {f : Flags} (hm : mnemonicOf op = some m)
    (hread : flagRead m f = some none) :
    decodeControl op f false = { controlRow m false with fault := some .undefinedFlags } := by
  simp [decodeControl, hm, hread]

/-- What an opcode decodes to: a row of the table, or one with a fault in it. NOPCTL is the row of NOP. -/
theorem decodeControl_cases (op : BitVec 5) (f : Flags) (rst : Bool) :
    (∃ m bit, decodeControl op f rst = controlRow m bit) ∨
      ∃ m e, decodeControl op f rst = { controlRow m false with fault := some e } := by
  cases rst
  case true => exact .inl ⟨.nop, false, rfl⟩
  case false =>
    cases hm : mnemonicOf op with
    | none => exact .inr ⟨.nop, _, decodeControl_of_illegal hm f⟩
    | some m =>
      match hread : flagRead m f with
      | none => exact .inl ⟨m, false, decodeControl_of_no_flag hm hread⟩
      | some (some bit) => exact .inl ⟨m, bit, decodeControl_of_flag hm hread⟩
      | some none => exact .inr ⟨m, _, decodeControl_of_undefined_flag hm hread⟩

/-- A defined word is decoded by its opcode. -/
theorem decodeFetched_of_word {x : IfId} {w : Word} (hx : x.ins = some w) (f : Flags) (rst : Bool) :
    decodeFetched x f rst = decodeControl (opField w) f rst := by
  simp [decodeFetched, hx]

/-- An undefined word decodes to NOPCTL with its fault (R68). -/
theorem decodeFetched_of_undefined {x : IfId} (hx : x.ins = none) (f : Flags) :
    decodeFetched x f false = { nopCtl with fault := some (.undefinedInstructionWord x.pc) } := by
  simp [decodeFetched, hx]

/-- While reset is asserted every word decodes to NOPCTL (R67). -/
theorem decodeFetched_of_rst (x : IfId) (f : Flags) : decodeFetched x f true = nopCtl := by
  unfold decodeFetched
  split <;> rfl

/-- Settles O46: each opcode has the mnemonic of its row; opcodes 0 to 23 read no flag, the others a defined one. -/
theorem decodeTableRows : Obligations.DecodeTableRows := by
  refine ⟨fun f => ?_, ?_, decodeControl_of_rst⟩
  · exact ⟨decodeControl_of_no_flag (m := .nop) rfl rfl, decodeControl_of_no_flag (m := .hlt) rfl rfl,
      decodeControl_of_no_flag (m := .load) rfl rfl, decodeControl_of_no_flag (m := .store) rfl rfl,
      decodeControl_of_no_flag (m := .li) rfl rfl, decodeControl_of_no_flag (m := .lui) rfl rfl,
      decodeControl_of_no_flag (m := .cmp) rfl rfl, decodeControl_of_no_flag (m := .add) rfl rfl,
      decodeControl_of_no_flag (m := .sub) rfl rfl, decodeControl_of_no_flag (m := .and) rfl rfl,
      decodeControl_of_no_flag (m := .or) rfl rfl, decodeControl_of_no_flag (m := .xor) rfl rfl,
      decodeControl_of_no_flag (m := .not) rfl rfl, decodeControl_of_no_flag (m := .cmpi) rfl rfl,
      decodeControl_of_no_flag (m := .addi) rfl rfl, decodeControl_of_no_flag (m := .subi) rfl rfl,
      decodeControl_of_no_flag (m := .andi) rfl rfl, decodeControl_of_no_flag (m := .ori) rfl rfl,
      decodeControl_of_no_flag (m := .xori) rfl rfl, decodeControl_of_illegal rfl f,
      decodeControl_of_no_flag (m := .jmp) rfl rfl, decodeControl_of_no_flag (m := .jr) rfl rfl,
      decodeControl_of_no_flag (m := .jalr) rfl rfl, decodeControl_of_illegal rfl f⟩
  · rintro f c z v n rfl
    exact ⟨decodeControl_of_flag (m := .beq) rfl rfl, decodeControl_of_flag (m := .bne) rfl rfl,
      decodeControl_of_flag (m := .blt) rfl rfl, decodeControl_of_flag (m := .bgt) rfl rfl,
      decodeControl_of_flag (m := .bltu) rfl rfl, decodeControl_of_flag (m := .bgtu) rfl rfl,
      decodeControl_of_flag (m := .adc) rfl rfl, decodeControl_of_flag (m := .sbc) rfl rfl⟩

-- The inputs of the decode table ---------------------------------------------------------------------------

/-- The rows before opcode 24 read no flag (R66). -/
theorem flagRead_eq_none {op : BitVec 5} {m : Mnemonic} (hm : mnemonicOf op = some m) (hop : op < 24) (f : Flags) :
    flagRead m f = none := by
  rw [← opcodeOf_of_mnemonicOf hm] at hop
  cases m
  case beq | bne | blt | bgt | bltu | bgtu | adc | sbc => exact absurd hop (by decide)
  all_goals rfl

/-- No row of the table has a fault of its own. -/
@[simp] theorem controlRow_fault (m : Mnemonic) (bit : Bool) : (controlRow m bit).fault = none := by
  cases m <;> rfl

/-- Before opcode 24 the decode is the same for all flags (R66). -/
theorem decodeControl_flags_irrelevant {op : BitVec 5} (hop : op < 24) (f g : Flags) :
    decodeControl op f false = decodeControl op g false := by
  cases hm : mnemonicOf op with
  | none => rw [decodeControl_of_illegal hm, decodeControl_of_illegal hm]
  | some m =>
    rw [decodeControl_of_no_flag hm (flagRead_eq_none hm hop f),
      decodeControl_of_no_flag hm (flagRead_eq_none hm hop g)]

/-- The decode has no fault where no flag that it reads is undefined (R66). -/
theorem decodeControl_fault_eq_none {op : BitVec 5} {m : Mnemonic} {f : Flags} (hm : mnemonicOf op = some m)
    (hread : flagRead m f ≠ some none) : (decodeControl op f false).fault = none := by
  match hbit : flagRead m f with
  | none => rw [decodeControl_of_no_flag hm hbit, controlRow_fault]
  | some (some bit) => rw [decodeControl_of_flag hm hbit, controlRow_fault]
  | some none => exact absurd hbit hread

/-- Settles O48: the branch conditions and the carry-in stand in the rows of the table. -/
theorem decodeTableInputs : Obligations.DecodeTableInputs := by
  refine ⟨fun op f g hop => decodeControl_flags_irrelevant hop f g, fun f c z v n hf => ?_,
    fun op m f hm => ⟨decodeControl_of_undefined_flag hm, decodeControl_fault_eq_none hm⟩, decodeControl_of_rst,
    fun x f hx => decodeFetched_of_undefined hx f⟩
  obtain ⟨-, hflagRows, -⟩ := decodeTableRows
  obtain ⟨hbeq, hbne, hblt, hbgt, hbltu, hbgtu, hadc, hsbc⟩ := hflagRows f c z v n hf
  simp only [hbeq, hbne, hblt, hbgt, hbltu, hbgtu, hadc, hsbc, and_self]

-- The invariants of the decode table -----------------------------------------------------------------------

/-- What R69 asks of a control word: (1), (2) and (4). -/
theorem ControlWord.sound_iff (c : ControlWord) :
    c.sound = true ↔ ¬(c.memLoad = true ∧ c.assertStoreOp = true) ∧ ¬(c.memLoad = true ∧ c.memStore = true) ∧
      (c.wbSrc = .bus → c.memLoad = true ∨ c.assertStoreOp = true) := by
  simp only [ControlWord.sound]
  cases c.wbSrc <;> simp [and_assoc, imp_iff_not_or]

/-- Every row of the table keeps R69. -/
@[simp] theorem controlRow_sound (m : Mnemonic) (bit : Bool) : (controlRow m bit).sound = true := by
  cases m <;> rfl

/-- Whatever the opcode, the flags and reset, the decode keeps R69. -/
theorem decodeControl_sound (op : BitVec 5) (f : Flags) (rst : Bool) : (decodeControl op f rst).sound = true := by
  obtain ⟨m, bit, h⟩ | ⟨m, e, h⟩ := decodeControl_cases op f rst <;> rw [h]
  · exact controlRow_sound m bit
  · exact controlRow_sound m false

/-- MEM's check comes before its access (R133). -/
theorem memStage_of_memCheck {s : State} {cause : InternalCause} (h : memCheck s.exmem.ctl = some cause) :
    memStage s = .error cause := by
  simp [memStage, h]

/-- An error of MEM is what the cycle records, before any fault of EX (R119). -/
theorem cycle_faulted_of_memStage_error {s : State} {cause : InternalCause}
    (h : memStage (wbStage s) = .error cause) :
    (cycle s).faulted = some (.internalError cause ⟨s.exmem.pc, none⟩) := by
  simp [cycle, h]

/-- Settles O47: every row is sound, MEM looks at its control word before anything else, and its check refuses exactly the
unsound ones. -/
theorem decodeRowsKeepTheInvariants : Obligations.DecodeRowsKeepTheInvariants := by
  refine ⟨?_, fun s cause h => cycle_faulted_of_memStage_error (memStage_of_memCheck h), fun c => ?_⟩
  · rintro op f rst c rfl
    obtain ⟨hload, hstore, hbus⟩ := (ControlWord.sound_iff _).mp (decodeControl_sound op f rst)
    refine ⟨hload, hstore, ?_, ?_, hbus⟩
    · cases (decodeControl op f rst).selRight <;> simp
    · cases (decodeControl op f rst).selStore <;> simp
  · rw [ne_eq, memCheck_eq_none, ControlWord.sound_iff]
    simp only [Bool.eq_false_iff]
    tauto

end Sys2Proof.Machine

namespace Sys2Proof.Machine

-- EX's checks and operands ---------------------------------------------------------------------------------

/-- EX raises no fault where the control word has none and the ports it uses are defined (R119). -/
theorem exFault_eq_none_iff (x : IdEx) :
    exFault x = none ↔ x.ctl.fault = none ∧ (x.ctl.usesA = true → x.a.word?.isSome = true) ∧
      (x.ctl.usesB = true → x.b.word?.isSome = true) := by
  unfold exFault
  split
  · next e he => simp [he]
  · next hnone =>
    simp only [Bool.and_eq_true, Option.isNone_iff_eq_none]
    split_ifs with hA hB
    · simp [hA]
    · simp [hB]
    · simp only [Option.isSome_iff_ne_none]
      exact ⟨fun _ => ⟨hnone, not_and.mp hA, not_and.mp hB⟩, fun _ => trivial⟩

/-- None of the faults that EX checks for is an internal error (R117). -/
theorem exFault_ne_internalError (x : IdEx) (cause : InternalCause) (site : FaultSite) :
    exFault x ≠ some (.internalError cause site) := by
  unfold exFault
  split
  · next e _ => cases e <;> simp [CtlFault.raise]
  · split
    · simp
    · split <;> simp

/-- An immediate of a defined word is defined (R57). -/
theorem rightOperand_defined {sel : SelRight} (hsel : sel ≠ .regB) (b : RegVal) (w : Word) :
    (rightOperand sel b (some w)).word?.isSome = true := by
  cases sel
  case regB => exact absurd rfl hsel
  all_goals simp [rightOperand]

/-- ADD of two defined operands is defined (R73). -/
theorem alu_add_defined {a r : RegVal} (ha : a.word?.isSome = true) (hr : r.word?.isSome = true) (cin : Bool) :
    (alu .add a r cin).y.isSome = true := by
  obtain ⟨x, hx⟩ := Option.isSome_iff_exists.mp ha
  obtain ⟨y, hy⟩ := Option.isSome_iff_exists.mp hr
  simp [alu, aluOnDefined, hx, hy, AluOut.raw]

/-- PASSR of a defined operand is defined (R73). -/
theorem alu_passR_defined {r : RegVal} (hr : r.word?.isSome = true) (a : RegVal) (cin : Bool) :
    (alu .passR a r cin).y.isSome = true := hr

-- What the rows make of an address, a target and a store word ----------------------------------------------

/-- A row that makes an access or a jump adds an immediate to a port A that it uses, or passes an immediate (R65). -/
theorem controlRow_address {m : Mnemonic} {bit : Bool}
    (h : ((controlRow m bit).memLoad || (controlRow m bit).memStore || (controlRow m bit).j) = true) :
    (controlRow m bit).selRight ≠ .regB ∧
      ((controlRow m bit).aluOp = .passR ∨
        (controlRow m bit).aluOp = .add ∧ (controlRow m bit).usesA = true) := by
  cases m
  case load | store | jr | jalr => exact ⟨by simp [controlRow], .inr ⟨rfl, rfl⟩⟩
  case jmp | beq | bne | blt | bgt | bltu | bgtu => exact ⟨by simp [controlRow, relativeRow], .inl rfl⟩
  all_goals exact absurd h Bool.false_ne_true

/-- The row that stores takes its word from a port B that it uses (R65). -/
theorem controlRow_storeWord {m : Mnemonic} {bit : Bool} (h : (controlRow m bit).memStore = true) :
    (controlRow m bit).selStore = .regB ∧ (controlRow m bit).usesB = true := by
  cases m
  case store => exact ⟨rfl, rfl⟩
  all_goals exact absurd h Bool.false_ne_true

-- What ID latches is sound ---------------------------------------------------------------------------------

/-- An instruction whose control word has a fault never gets past EX, so R69 is all that is asked of it. -/
theorem soundIdEx_of_fault {x : IdEx} (hsound : x.ctl.sound = true) (hfault : x.ctl.fault ≠ none) : SoundIdEx x := by
  have hex : exFault x ≠ none := fun h => hfault ((exFault_eq_none_iff x).mp h).1
  exact ⟨hsound, fun h => absurd h hex, fun h => absurd h hex⟩

/-- A row of the table together with the word it was decoded from is sound: what EX checks makes the address, the target
and the store word defined. -/
theorem soundIdEx_of_row {x : IdEx} {m : Mnemonic} {bit : Bool} {w : Word} (hctl : x.ctl = controlRow m bit)
    (hins : x.ins = some w) : SoundIdEx x := by
  unfold SoundIdEx
  simp only [exFault_eq_none_iff, hctl, hins]
  refine ⟨controlRow_sound m bit, fun ⟨_, hA, _⟩ haccess => ?_, fun ⟨_, _, hB⟩ hstore => ?_⟩
  · obtain ⟨hsel, hop⟩ := controlRow_address haccess
    have hright := rightOperand_defined hsel x.b w
    obtain hpass | ⟨hadd, huses⟩ := hop
    · rw [hpass]
      exact alu_passR_defined hright ..
    · rw [hadd]
      exact alu_add_defined (hA huses) hright _
  · obtain ⟨hsel, huses⟩ := controlRow_storeWord hstore
    rw [hsel]
    exact hB huses

/-- NOPCTL asks for nothing, whatever word and operands stand beside it. -/
theorem soundIdEx_of_nopCtl {x : IdEx} (hctl : x.ctl = nopCtl) : SoundIdEx x :=
  ⟨by rw [hctl, nopCtl_sound], by simp [hctl, nopCtl], by simp [hctl, nopCtl]⟩

/-- What is decoded from IF/ID is sound in ID/EX (R65 to R68). -/
theorem soundIdEx_of_decodeFetched {x : IdEx} {fetched : IfId} {f : Flags} {rst : Bool}
    (hctl : x.ctl = decodeFetched fetched f rst) (hins : x.ins = fetched.ins) : SoundIdEx x := by
  cases hw : fetched.ins with
  | some w =>
    have hdecoded := hctl.trans (decodeFetched_of_word hw f rst)
    obtain ⟨m, bit, hrow⟩ | ⟨m, e, hrow⟩ := decodeControl_cases (opField w) f rst
    · exact soundIdEx_of_row (hdecoded.trans hrow) (hins.trans hw)
    · exact soundIdEx_of_fault (by rw [hdecoded, decodeControl_sound]) (by simp [hdecoded, hrow])
  | none =>
    cases rst
    case true => exact soundIdEx_of_nopCtl (hctl.trans (decodeFetched_of_rst fetched f))
    case false =>
      have hdecoded := hctl.trans (decodeFetched_of_undefined hw f)
      exact soundIdEx_of_fault (by rw [hdecoded]; rfl) (by simp [hdecoded])

/-- ID latches a bubble or what it decoded (R135), so what it latches is sound. -/
theorem soundIdEx_idStage (s : State) (regs : Vector RegVal 8) (exFwd memFwd : RegVal) (jump : Bool) :
    SoundIdEx (idStage s regs exFwd memFwd jump) := by
  unfold idStage
  split
  · exact soundIdEx_bubble
  · exact soundIdEx_of_decodeFetched rfl rfl

-- What EX does with a sound ID/EX --------------------------------------------------------------------------

/-- EX takes a sound ID/EX to a sound EX/MEM (R134). -/
theorem soundExMem_of_exStage {pc : Word} {x : IdEx} {out : ExOut} (hx : SoundIdEx x) (h : exStage pc x = .ok out) :
    SoundExMem out.exmem := by
  obtain ⟨hsound, haddress, hword⟩ := hx
  obtain ⟨hfault, hexmem, -⟩ := exStage_ok h
  rw [hexmem]
  exact ⟨hsound, fun haccess => haddress hfault (by simp only [haccess, Bool.true_or]), hword hfault⟩

/-- The fault that EX raises on a sound ID/EX is one that it checks for: every jump has a defined target. -/
theorem exFault_of_exStage_error {pc : Word} {x : IdEx} {f : Fault} (hx : SoundIdEx x) (h : exStage pc x = .error f) :
    exFault x = some f := by
  obtain ⟨-, haddress, -⟩ := hx
  unfold exStage at h
  split at h
  · next hfault => cases h; exact hfault
  · next hnone =>
    dsimp only at h
    split at h
    · next hj =>
      obtain ⟨y, hy⟩ := Option.isSome_iff_exists.mp (haddress hnone (by simp [hj]))
      simp [hy] at h
    · cases h

-- What MEM does with a sound EX/MEM ------------------------------------------------------------------------

/-- MEM raises no error on a sound EX/MEM (R133). -/
theorem memStage_ne_error_of_sound {s : State} (h : SoundExMem s.exmem) (cause : InternalCause) :
    memStage s ≠ .error cause := by
  obtain ⟨hsound, haddress, hword⟩ := h
  have hcheck : memCheck s.exmem.ctl = none := (memCheck_eq_none _).mpr hsound
  unfold memStage
  simp only [hcheck]
  split
  · next hload =>
    obtain ⟨e, he⟩ := Option.isSome_iff_exists.mp (haddress (by simp [hload]))
    simp [he]
  · split
    · next hstore =>
      obtain ⟨e, he⟩ := Option.isSome_iff_exists.mp (haddress (by simp [hstore]))
      obtain ⟨v, hv⟩ := Option.isSome_iff_exists.mp (hword hstore)
      simp [he, hv]
    · simp

/-- MEM's access leaves the pipeline registers before it. -/
theorem memStage_after_pipeline {s : State} {m : MemOut} (h : memStage s = .ok m) :
    m.after.idex = s.idex ∧ m.after.exmem = s.exmem := by
  obtain ⟨-, ⟨-, e, -, rfl⟩ | ⟨-, -, e, v, -, -, rfl⟩ | ⟨-, -, rfl⟩⟩ := memStage_ok h <;> simp [memLatch]

-- The sound pipeline ---------------------------------------------------------------------------------------

/-- A clock cycle that starts without a fault keeps the pipeline sound: MEM raises nothing, EX only what it checks for,
and what EX and ID latch is sound (R131). -/
theorem cycle_soundPipeline {s : State} (hs : SoundPipeline s) (hrunning : s.faulted = none) :
    SoundPipeline (cycle s) := by
  obtain ⟨hidex, hexmem, -⟩ := hs
  obtain ⟨cause, herror, -⟩ | ⟨m, f, hm, hf, hcycle⟩ | ⟨m, x, hm, hx, hcycle⟩ := cycle_cases s
  · exact absurd herror (memStage_ne_error_of_sound (s := wbStage s) hexmem cause)
  · obtain ⟨hidex', hexmem'⟩ := memStage_after_pipeline hm
    rw [hcycle]
    refine ⟨?_, ?_, fun cause site hinternal => ?_⟩
    · rwa [State.stopWith_idex, hidex', wbStage_idex]
    · rwa [State.stopWith_exmem, hexmem', wbStage_exmem]
    · rw [State.stopWith_faulted, ← exFault_of_exStage_error hidex hf] at hinternal
      exact exFault_ne_internalError s.idex cause site hinternal
  · obtain ⟨-, -, -, -, -, -, -, -, -, hfaulted⟩ := memStage_after hm
    rw [hcycle]
    refine ⟨soundIdEx_idStage .., soundExMem_of_exStage hidex hx, ?_⟩
    rw [latch_faulted, hfaulted, wbStage_faulted, hrunning]
    exact noInternalError_none

/-- Settles O49, by the cases of a step: reset puts bubbles everywhere, an instruction leaves the pipeline registers alone,
and a clock cycle keeps them sound stage by stage. -/
theorem stepKeepsThePipelineSound : Obligations.StepKeepsThePipelineSound := by
  intro s t hs hstep
  obtain ⟨-, rfl⟩ | ⟨-, hrunning, -, -, ⟨-, -, w, i, -, -, hexec⟩ | ⟨-, rfl⟩⟩ := step_next hstep
  · exact ⟨soundIdEx_bubble, soundExMem_bubble, noInternalError_none⟩
  · obtain ⟨-, hidex, hexmem, -, -, hfaulted, -⟩ := exec_sameHidden hexec
    rw [SoundPipeline, hidex, hexmem, hfaulted]
    exact hs
  · exact cycle_soundPipeline hs hrunning

end Sys2Proof.Machine

namespace Sys2Proof.Machine

-- The ALU's results and flags ------------------------------------------------------------------------------

/-- The carry out of the ALU's ADD (R75). -/
theorem aluAdd_c (a r : Word) (c : Bool) :
    (aluAdd a r c).c = decide (2 ^ 16 ≤ a.toNat + r.toNat + c.toNat) := rfl

/-- The carry out of the ALU's SUB is "not borrow": with `cin = 0` one more is borrowed (R75). -/
theorem aluSub_c (a r : Word) (c : Bool) :
    (aluSub a r c).c = decide (r.toNat + (1 - c.toNat) ≤ a.toNat) := by
  have hnot : (~~~r).toNat = 2 ^ 16 - 1 - r.toNat := BitVec.toNat_not
  have hr := r.isLt
  have hc := c.toNat_le
  simp only [aluSub, hnot, decide_eq_decide]
  omega

/-- The overflow of the ALU's SUB, by the integer difference (R73). -/
theorem aluSub_v (a r : Word) (c : Bool) :
    (aluSub a r c).v = decide (Overflows (a.toInt - r.toInt - (1 - (c.toNat : Int)))) := rfl

/-- With `cin = 0` the result of ADD is `a + r` (R73). -/
theorem aluAdd_y_false (a r : Word) : (aluAdd a r false).y = a + r := by
  simp [aluAdd_y]

/-- The flags of the ALU's ADD (R73, R75). -/
theorem aluAdd_flags (a r : Word) (c : Bool) :
    (aluAdd a r c).flags =
      ⟨some (decide (2 ^ 16 ≤ a.toNat + r.toNat + c.toNat)),
        some (decide (a + r + BitVec.ofNat 16 c.toNat = 0)),
        some (decide (Overflows (a.toInt + r.toInt + c.toNat))),
        some (a + r + BitVec.ofNat 16 c.toNat).msb⟩ := by
  rw [← aluAdd_y]
  rfl

/-- The flags of the ALU's ADD with `cin = 0` (R79). -/
theorem aluAdd_flags_false (a r : Word) :
    (aluAdd a r false).flags =
      ⟨some (decide (2 ^ 16 ≤ a.toNat + r.toNat)), some (decide (a + r = 0)),
        some (decide (Overflows (a.toInt + r.toInt))), some (a + r).msb⟩ := by
  simp [aluAdd_flags]

/-- The flags of the ALU's SUB (R73, R75). -/
theorem aluSub_flags (a r : Word) (c : Bool) :
    (aluSub a r c).flags =
      ⟨some (decide (r.toNat + (1 - c.toNat) ≤ a.toNat)),
        some (decide (a + ~~~r + BitVec.ofNat 16 c.toNat = 0)),
        some (decide (Overflows (a.toInt - r.toInt - (1 - (c.toNat : Int))))),
        some (a + ~~~r + BitVec.ofNat 16 c.toNat).msb⟩ := by
  rw [← aluSub_c, ← aluSub_y]
  rfl

/-- The flags of the ALU's SUB with `cin = 1` (R80). -/
theorem aluSub_flags_true (a r : Word) :
    (aluSub a r true).flags =
      ⟨some (decide (r.toNat ≤ a.toNat)), some (decide (a - r = 0)),
        some (decide (Overflows (a.toInt - r.toInt))), some (a - r).msb⟩ := by
  rw [aluSub_flags, ← aluSub_y, aluSub_y_true]
  simp

/-- The flags of a logic function with result `y` (R76). -/
theorem logicOut_flags (op : LogicOp) (a : Word) (r : RegVal) (y : Word) :
    (logicOut op a r y).flags =
      ⟨some (Config.logicCV op a r).1, some (decide (y = 0)), some (Config.logicCV op a r).2,
        some y.msb⟩ := rfl

-- How an ALU instruction completes -------------------------------------------------------------------------

/-- Committing an ALU output changes `rd`, the flags, PC and the records of retiring alone. -/
theorem State.frame_commitAlu (s : State) (rd : RegSel) (o : AluOut) :
    Frame (some rd) s (s.commitAlu rd o) := by
  refine ⟨fun i hi => ?_, sameMemory_of_eq (by simp) (by simp), by simp [SameHidden], by simp [SameOutside]⟩
  have hne : i ≠ rd := fun h => hi (congrArg some h.symm)
  rw [State.reg_commitAlu, if_neg hne]

/-- Committing the flags of an ALU output changes no register. -/
theorem State.frame_commitFlags (s : State) (o : AluOut) : Frame none s (s.commitFlags o) :=
  ⟨fun i _ => State.reg_commitFlags s o i, sameMemory_of_eq (by simp) (by simp), by simp [SameHidden],
    by simp [SameOutside]⟩

/-- An instruction that commits an ALU output to `rd` completes with its result and its flags (R74). -/
theorem completes_of_commitAlu {r : Result} {s : State} {rd : RegSel} {o : AluOut} {y : Word} {f : Flags}
    (h : r = .next (s.commitAlu rd o)) (hy : o.y = y) (hf : o.flags = f) :
    Completes r fun t => t.reg rd = .ofWord y ∧ t.flags = f ∧ Continues s t ∧ Frame (some rd) s t :=
  ⟨_, h, by simp [hy], by simp [hf], by simp [Continues], s.frame_commitAlu rd o⟩

/-- An instruction that commits the flags of an ALU output completes with them (R87). -/
theorem completes_of_commitFlags {r : Result} {s : State} {o : AluOut} {f : Flags}
    (h : r = .next (s.commitFlags o)) (hf : o.flags = f) :
    Completes r fun t => t.flags = f ∧ Continues s t ∧ Frame none s t :=
  ⟨_, h, by simp [hf], by simp [Continues], s.frame_commitFlags o⟩

/-- Two operands that are defined are used. -/
theorem State.useRegs_of_word {s : State} {ra rb : RegSel} {a b : Word} (ha : (s.reg ra).word? = some a)
    (hb : (s.reg rb).word? = some b) (k : Word → Word → Result) : s.useRegs ra rb k = k a b :=
  (State.useReg_of_word ha _).trans (State.useReg_of_word hb _)

/-- An instruction whose flags are defined faults on its first undefined port (R119). -/
theorem exec_faultsWhereUndefined {i : Instr} {s : State} {ra : RegSel}
    (hflags : flagRead i.mnemonic s.flags ≠ some none) (hA : portA i = some ra) :
    FaultsWhereUndefined s ra (portB i) (exec i s) := by
  refine ⟨exec_of_portA_undefined hflags hA, fun hdef rb hB => exec_of_portB_undefined hflags ?_ hB⟩
  intro r hr
  cases hA.symm.trans hr
  exact hdef

-- The register-register instructions -----------------------------------------------------------------------

/-- Settles O14: both are the ALU's output committed to `rd`, with carry-in 0 and 1. -/
theorem addAndSubResults : Obligations.AddAndSubResults := by
  refine ⟨by decide, by decide, fun s rd ra rb => ⟨fun a b ha hb => ⟨?_, ?_⟩, ?_, ?_⟩⟩
  · exact completes_of_commitAlu (State.useRegs_of_word ha hb _) (aluAdd_y_false a b) (aluAdd_flags_false a b)
  · exact completes_of_commitAlu (State.useRegs_of_word ha hb _) (aluSub_y_true a b) (aluSub_flags_true a b)
  · exact exec_faultsWhereUndefined (i := .add rd ra rb) nofun rfl
  · exact exec_faultsWhereUndefined (i := .sub rd ra rb) nofun rfl

/-- Settles O15: each is the logic function's output committed to `rd`. -/
theorem logicResults : Obligations.LogicResults := by
  refine ⟨by decide, by decide, by decide, fun s rd ra rb => ⟨fun a b ha hb => ⟨?_, ?_, ?_⟩, ?_, ?_, ?_⟩⟩
  · exact completes_of_commitAlu (State.useRegs_of_word ha hb _) rfl (logicOut_flags .and a (.ofWord b) _)
  · exact completes_of_commitAlu (State.useRegs_of_word ha hb _) rfl (logicOut_flags .or a (.ofWord b) _)
  · exact completes_of_commitAlu (State.useRegs_of_word ha hb _) rfl (logicOut_flags .xor a (.ofWord b) _)
  · exact exec_faultsWhereUndefined (i := .and rd ra rb) nofun rfl
  · exact exec_faultsWhereUndefined (i := .or rd ra rb) nofun rfl
  · exact exec_faultsWhereUndefined (i := .xor rd ra rb) nofun rfl

/-- Settles O16: only port A is used, and what port B holds reaches LOGIC_CV as it is. -/
theorem notResult : Obligations.NotResult := by
  refine ⟨by decide, fun s rd ra => ⟨fun a ha => ?_, exec_faultsWhereUndefined (i := .not rd ra) nofun rfl⟩⟩
  exact completes_of_commitAlu (State.useReg_of_word ha _) rfl (logicOut_flags .not a (s.reg (selB s.ir)) _)

/-- Settles O17: the carry is looked at first; where it is defined, each is the ALU's output with it as carry-in. -/
theorem carryChainResults : Obligations.CarryChainResults := by
  refine ⟨by decide, by decide, fun s rd ra rb => ⟨fun hc => ?_, fun c hc => ?_⟩⟩
  · exact ⟨State.useFlag_of_none hc _, State.useFlag_of_none hc _⟩
  have hread : some s.flags.c ≠ some none := by simp [hc]
  refine ⟨fun a b ha hb => ⟨?_, ?_⟩, ?_, ?_⟩
  · exact completes_of_commitAlu ((State.useFlag_of_some hc _).trans (State.useRegs_of_word ha hb _))
      (aluAdd_y a b c) (aluAdd_flags a b c)
  · exact completes_of_commitAlu ((State.useFlag_of_some hc _).trans (State.useRegs_of_word ha hb _))
      (aluSub_y a b c) (aluSub_flags a b c)
  · exact exec_faultsWhereUndefined (i := .adc rd ra rb) hread rfl
  · exact exec_faultsWhereUndefined (i := .sbc rd ra rb) hread rfl

/-- Settles O18: the flags of the ALU's SUB, committed without its result. -/
theorem cmpResult : Obligations.CmpResult := by
  refine ⟨by decide, fun s ra rb => ⟨fun a b ha hb => ?_, exec_faultsWhereUndefined (i := .cmp ra rb) nofun rfl⟩⟩
  exact completes_of_commitFlags (State.useRegs_of_word ha hb _) (aluSub_flags_true a b)

-- Which instructions write flags ---------------------------------------------------------------------------

/-- The rows that latch the flags are those of the flag-setting instructions (R65, R74). -/
theorem controlRow_fi (m : Mnemonic) (bit : Bool) : (controlRow m bit).fi = setsFlags m := by
  cases m <;> rfl

/-- A cycle that raises no fault latches the ALU's flags where `fi` is asserted, and keeps the flags where not (R74). -/
theorem cycle_flags {s : State} (h : Latches s) :
    (cycle s).flags =
      if s.idex.ctl.fi then
        (alu s.idex.ctl.aluOp s.idex.a (rightOperand s.idex.ctl.selRight s.idex.b s.idex.ins)
          s.idex.ctl.cin).flags
      else s.flags := by
  obtain ⟨m, x, -, hx, hcycle⟩ := cycle_of_latches h
  obtain ⟨-, -, hflags, -⟩ := exStage_ok hx
  rw [hcycle, latch_flags, hflags]

/-- An instruction that is not flag-setting leaves the flags (R74). -/
theorem exec_flags {i : Instr} {s t : State} (hset : setsFlags i.mnemonic = false) (h : exec i s = .next t) :
    t.flags = s.flags := by
  cases i
  case nop | hlt | li | lui | jmp => cases h; simp
  case load | jr | jalr =>
    obtain ⟨a, -, h⟩ := State.useReg_next.mp h
    cases h; simp
  case store =>
    obtain ⟨base, -, h⟩ := State.useReg_next.mp h
    obtain ⟨v, -, h⟩ := State.useReg_next.mp h
    cases h; simp
  case beq | bne | blt | bgt | bltu | bgtu =>
    obtain ⟨-, rfl⟩ | ⟨-, rfl⟩ := State.branch_next.mp h
    · exact State.jumpTo_flags ..
    · exact State.retire_flags ..
  all_goals cases hset

/-- Settles O37: the rows, the cycle and the instructions outside the 15, one lemma each. -/
theorem onlyTheFlagSettersWriteFlags : Obligations.OnlyTheFlagSettersWriteFlags := by
  refine ⟨controlRow_fi, fun s h => ⟨fun hfi => ?_, fun hfi => ?_⟩, fun i s t => exec_flags⟩
  · rw [cycle_flags h, if_pos hfi]
  · rw [cycle_flags h, hfi, if_neg Bool.false_ne_true]

/-- Settles O38: the rows as the table has them, and the ALU's carry, result and overflow. -/
theorem carryConvention : Obligations.CarryConvention := by
  refine ⟨fun m bit hm => ?_, fun bit => ⟨rfl, rfl, rfl, rfl, rfl⟩, aluAdd_c, fun a r => aluSub_c a r true, aluSub_c,
    aluSub_y_true, aluSub_v⟩
  obtain rfl | rfl | rfl | rfl := hm <;> exact ⟨rfl, rfl⟩

end Sys2Proof.Machine

namespace Sys2Proof.Machine

-- Sign-extended immediates ---------------------------------------------------------------------------------

/-- The sign-extended immediate keeps its value as a signed number (R9). -/
theorem sext5_toInt (imm : BitVec 5) : (sext5 imm).toInt = imm.toInt :=
  BitVec.toInt_signExtend_of_le (by decide)

/-- The flags of the ALU's ADD of an immediate: V is that of the sum with its signed value (R88). -/
theorem aluAdd_flags_sext5 (a : Word) (imm : BitVec 5) :
    (aluAdd a (sext5 imm) false).flags =
      ⟨some (decide (2 ^ 16 ≤ a.toNat + (sext5 imm).toNat)), some (decide (a + sext5 imm = 0)),
        some (decide (Overflows (a.toInt + imm.toInt))), some (a + sext5 imm).msb⟩ := by
  rw [aluAdd_flags_false, sext5_toInt]

/-- The flags of the ALU's SUB of an immediate: C takes it as a 16-bit number, V as its signed value (R89, R93). -/
theorem aluSub_flags_sext5 (a : Word) (imm : BitVec 5) :
    (aluSub a (sext5 imm) true).flags =
      ⟨some (decide ((sext5 imm).toNat ≤ a.toNat)), some (decide (a - sext5 imm = 0)),
        some (decide (Overflows (a.toInt - imm.toInt))), some (a - sext5 imm).msb⟩ := by
  rw [aluSub_flags_true, sext5_toInt]

-- How an instruction that writes a constant completes ------------------------------------------------------

/-- Committing a value changes `rd`, PC and the records of retiring alone. -/
theorem State.frame_commit (s : State) (rd : RegSel) (v : RegVal) : Frame (some rd) s (s.commit rd v) := by
  refine ⟨fun i hi => ?_, sameMemory_of_eq (by simp) (by simp), by simp [SameHidden], by simp [SameOutside]⟩
  have hne : i ≠ rd := fun h => hi (congrArg some h.symm)
  rw [State.reg_commit, if_neg hne]

/-- An instruction that commits a value to `rd` completes with it and keeps the flags. -/
theorem completes_of_commit {r : Result} {s : State} {rd : RegSel} {v : RegVal} (h : r = .next (s.commit rd v)) :
    Completes r fun t => t.reg rd = v ∧ t.flags = s.flags ∧ Continues s t ∧ Frame (some rd) s t :=
  ⟨_, h, by simp, by simp, by simp [Continues], s.frame_commit rd v⟩

/-- The high byte of LUI's value is the immediate (R56). -/
theorem imm8Hi_hi (imm : BitVec 8) : (RegVal.ofWord (imm8Hi imm)).hi = some imm :=
  congrArg some (extract_append_high imm 0)

-- The immediate ALU instructions and the constants ---------------------------------------------------------

/-- Settles O19: the ALU's output for the sign-extended immediate with carry-in 0, committed to `rd`. -/
theorem addiResult : Obligations.AddiResult := by
  refine ⟨by decide, fun s rd ra imm => ⟨fun a r ha hr => ?_, ?_⟩⟩
  · subst hr
    exact completes_of_commitAlu (State.useReg_of_word ha _) (aluAdd_y_false a _) (aluAdd_flags_sext5 a imm)
  · exact exec_faultsWhereUndefined (i := .addi rd ra imm) nofun rfl

/-- Settles O20: both have the flags of the ALU's SUB for the sign-extended immediate; SUBI commits its result too. -/
theorem subiAndCmpiResults : Obligations.SubiAndCmpiResults := by
  refine ⟨by decide, by decide, fun s rd ra imm => ⟨fun a r ha hr f hf => ?_, ?_, ?_⟩⟩
  · subst hr hf
    exact ⟨completes_of_commitAlu (State.useReg_of_word ha _) (aluSub_y_true a _) (aluSub_flags_sext5 a imm),
      completes_of_commitFlags (State.useReg_of_word ha _) (aluSub_flags_sext5 a imm)⟩
  · exact exec_faultsWhereUndefined (i := .subi rd ra imm) nofun rfl
  · exact exec_faultsWhereUndefined (i := .cmpi ra imm) nofun rfl

/-- Settles O21: each is the logic function's output for the sign-extended immediate, committed to `rd`. -/
theorem immediateLogicResults : Obligations.ImmediateLogicResults := by
  refine ⟨by decide, by decide, by decide, fun s rd ra imm => ⟨fun a r ha hr => ?_, ?_, ?_, ?_⟩⟩
  · subst hr
    refine ⟨?_, ?_, ?_⟩
    · exact completes_of_commitAlu (State.useReg_of_word ha _) rfl (logicOut_flags .and a (.ofWord (sext5 imm)) _)
    · exact completes_of_commitAlu (State.useReg_of_word ha _) rfl (logicOut_flags .or a (.ofWord (sext5 imm)) _)
    · exact completes_of_commitAlu (State.useReg_of_word ha _) rfl (logicOut_flags .xor a (.ofWord (sext5 imm)) _)
  · exact exec_faultsWhereUndefined (i := .andi rd ra imm) nofun rfl
  · exact exec_faultsWhereUndefined (i := .ori rd ra imm) nofun rfl
  · exact exec_faultsWhereUndefined (i := .xori rd ra imm) nofun rfl

/-- Settles O22: both commit a value, LUI one whose low byte is the register's own. -/
theorem constantResults : Obligations.ConstantResults := by
  refine ⟨by decide, by decide, fun s rd imm => ⟨completes_of_commit rfl, ?_⟩⟩
  obtain ⟨t, hnext, hreg, hrest⟩ := completes_of_commit (r := exec (.lui rd imm) s) rfl
  refine ⟨t, hnext, ?_, ?_, hrest⟩
  · rw [hreg]
    exact imm8Hi_hi imm
  · rw [hreg]
    rfl

end Sys2Proof.Machine

namespace Sys2Proof.Machine

-- LOAD and STORE by kind of address ------------------------------------------------------------------------

/-- A load from a device gives the next draw (R96). -/
theorem State.loadValue_of_device {s : State} {e : Word} (h : s.platform.isDevice e = true) :
    s.loadValue e = .ofWord (Config.deviceDraw s.draws e) := if_pos h

/-- A load outside IO_MAP leaves the state (R42). -/
theorem State.afterLoad_of_not_device {s : State} {e : Word} (h : s.platform.isDevice e = false) :
    s.afterLoad e = s := by
  simp [State.afterLoad, h]

/-- A load from a device uses up a draw and leaves the rest of the state (R96). -/
theorem State.afterLoad_of_device {s : State} {e : Word} (h : s.platform.isDevice e = true) :
    s.afterLoad e = { s with draws := s.draws + 1 } := if_pos h

/-- A store outside IMEM_ALIAS and IO_MAP writes the data word and nothing else (R97). -/
theorem State.storeWord_noteStale_of_ordinary {s : State} {e : Word} (halias : s.platform.aliasOf e = none)
    (hdevice : s.platform.isDevice e = false) (v : Word) :
    (s.noteStale e).storeWord e v = { s with dmem := Memory.writeWord s.dmem e v } := by
  simp [State.storeWord, State.noteStale, halias, hdevice]

/-- A store to a device outside IMEM_ALIAS is an output event and nothing else (R45). -/
theorem State.storeWord_noteStale_of_device {s : State} {e : Word} (halias : s.platform.aliasOf e = none)
    (hdevice : s.platform.isDevice e = true) (v : Word) :
    (s.noteStale e).storeWord e v = { s with events := s.events ++ [(e, v)] } := by
  simp [State.storeWord, State.noteStale, halias, hdevice]

/-- LOAD with a defined base (R96). -/
theorem exec_load_of_defined {s : State} {ra : RegSel} {base : Word} (hbase : (s.reg ra).word? = some base)
    (rd : RegSel) (imm : BitVec 5) :
    exec (.load rd ra imm) s =
      .next ((s.afterLoad (baseOffset base imm)).commit rd (s.loadValue (baseOffset base imm))) :=
  State.useReg_of_word hbase _

/-- Retiring changes PC and the records of retiring alone. -/
theorem State.frame_retire (s : State) (w : Option (RegSel × RegVal)) : Frame none s (s.retire w) :=
  ⟨fun i _ => State.reg_retire s w i, sameMemory_of_eq (by simp) (by simp), by simp [SameHidden],
    by simp [SameOutside]⟩

/-- Settles O23: LOAD commits the value at its address, in the state that the access leaves behind: the same one for a
data word, one with a draw more made for a device. -/
theorem loadResult : Obligations.LoadResult := by
  refine ⟨by decide, fun s rd ra imm => ⟨fun base e hbase he => ?_, ?_⟩⟩
  · subst he
    have hexec := exec_load_of_defined hbase rd imm
    rw [baseOffset_eq] at hexec
    refine ⟨fun hdevice => ?_, fun hdevice => ?_⟩
    · rw [State.afterLoad_of_not_device hdevice, State.loadValue_of_not_device hdevice] at hexec
      exact completes_of_commit hexec
    · rw [State.afterLoad_of_device hdevice, State.loadValue_of_device hdevice] at hexec
      obtain ⟨t, hnext, hreg, hflags, hcont, hregs, hmem, hhidden, hevents, hdraws, hchoices⟩ :=
        completes_of_commit hexec
      exact ⟨t, hnext, hreg, hdraws, hflags, hcont, hregs, hmem, hhidden, hevents, hchoices⟩
  · exact exec_faultsWhereUndefined (i := .load rd ra imm) nofun rfl

/-- Settles O24: STORE retires in the state that the write leaves behind, which differs in one data word or in one output
event. -/
theorem storeResult : Obligations.StoreResult := by
  refine ⟨by decide, fun s rb ra imm => ⟨fun base v e hbase hv he halias => ?_, ?_⟩⟩
  · subst he
    have hexec := exec_store_of_defined (imm := imm) hbase hv
    rw [baseOffset_eq] at hexec
    refine ⟨fun hdevice => ?_, fun hdevice => ?_⟩
    · rw [State.storeWord_noteStale_of_ordinary halias hdevice] at hexec
      obtain ⟨hregs, -, hhidden, houtside⟩ := State.frame_retire { s with dmem := Memory.writeWord s.dmem _ v } none
      exact ⟨_, hexec, Memory.readWord_writeWord_same .., fun k => Memory.readByte_writeWord_of_ne _, fun _ => rfl, rfl,
        ⟨rfl, rfl, rfl⟩, hregs, hhidden, houtside⟩
    · rw [State.storeWord_noteStale_of_device halias hdevice] at hexec
      obtain ⟨hregs, hmem, hhidden, -, hdraws, hchoices⟩ :=
        State.frame_retire { s with events := s.events ++ [(_, v)] } none
      exact ⟨_, hexec, rfl, hmem, rfl, ⟨rfl, rfl, rfl⟩, hregs, hhidden, hdraws, hchoices⟩
  · exact exec_faultsWhereUndefined (i := .store rb ra imm) nofun rfl

/-- Settles O26, from what STORE and LOAD do at an ordinary address: the STORE keeps the base register and IO_MAP, so the
LOAD reads the data word that was written. -/
theorem loadReturnsTheStoredWord : Obligations.LoadReturnsTheStoredWord := by
  intro s rb ra rd ra' imm imm' base base' v hbase hbase' hv haddr halias hdevice
  obtain ⟨-, hstore⟩ := storeResult
  obtain ⟨hstoreDefined, -⟩ := hstore s rb ra imm
  obtain ⟨hstoreOrdinary, -⟩ := hstoreDefined base v _ hbase hv rfl halias
  obtain ⟨t, hnext, hword, -, -, -, -, hregs, hhidden, -⟩ := hstoreOrdinary hdevice
  obtain ⟨-, -, -, -, -, -, -, -, -, hplatform, -⟩ := hhidden
  obtain ⟨-, hload⟩ := loadResult
  obtain ⟨hloadDefined, -⟩ := hload t rd ra' imm'
  obtain ⟨hloadOrdinary, -⟩ := hloadDefined base' _ (by rw [hregs ra' nofun, hbase']) haddr.symm
  obtain ⟨u, hnextLoad, hreg, -⟩ := hloadOrdinary (by rw [hplatform, hdevice])
  exact ⟨t, hnext, u, hnextLoad, hreg.trans hword⟩

end Sys2Proof.Machine

namespace Sys2Proof.Machine

-- How a jump or a branch completes -------------------------------------------------------------------------

/-- A taken jump changes PC and the records of retiring alone. -/
theorem State.frame_jumpTo (s : State) (target : Word) : Frame none s (s.jumpTo target) :=
  ⟨fun i _ => State.reg_jumpTo s target i, sameMemory_of_eq (by simp) (by simp), by simp [SameHidden],
    by simp [SameOutside]⟩

/-- Writing the link and then jumping changes `rd`, PC and the records of retiring alone: it differs from committing the
link in these alone. -/
theorem State.frame_setReg_jumpTo (s : State) (rd : RegSel) (v : RegVal) (target : Word) :
    Frame (some rd) s ((s.setReg rd v).jumpTo target) :=
  s.frame_commit rd v

/-- An instruction that ends in a taken jump completes at its target and keeps the flags (R102). -/
theorem completes_of_jumpTo {r : Result} {s : State} {target : Word} (h : r = .next (s.jumpTo target)) :
    Completes r fun t => JumpsTo target s t ∧ t.flags = s.flags ∧ Frame none s t :=
  ⟨_, h, ⟨rfl, rfl⟩, rfl, s.frame_jumpTo target⟩

/-- An instruction that writes a link and jumps completes at its target with the link in `rd`. -/
theorem completes_of_setReg_jumpTo {r : Result} {s : State} {rd : RegSel} {v : RegVal} {target : Word}
    (h : r = .next ((s.setReg rd v).jumpTo target)) :
    Completes r fun t => t.reg rd = v ∧ JumpsTo target s t ∧ t.flags = s.flags ∧ Frame (some rd) s t :=
  ⟨_, h, by simp, ⟨rfl, rfl⟩, rfl, s.frame_setReg_jumpTo rd v target⟩

/-- A branch whose condition reads an undefined flag faults (R66). -/
theorem State.branch_of_none {s : State} {cond : Option Bool} (h : cond = none) (imm : BitVec 11) :
    s.branch cond imm = .fault (.undefinedFlags s.site) := State.useFlag_of_none h _

/-- A branch whose condition decides `p` jumps where `p` holds and retires where not (R103). -/
theorem State.branch_of_decide {s : State} {cond : Option Bool} {p : Prop} [Decidable p] (h : cond = some (decide p))
    (imm : BitVec 11) :
    s.branch cond imm = .next (if p then s.jumpTo (relativeTarget s.pc imm) else s.retire none) := by
  rw [State.branch, State.useFlag_of_some h]
  by_cases hp : p <;> simp [hp]

/-- A branch whose condition decides `p` completes, at its target exactly where `p` holds, and keeps flags and
registers. -/
theorem completes_of_branch {s : State} {cond : Option Bool} {p : Prop} [Decidable p] (h : cond = some (decide p))
    {imm : BitVec 11} {target : Word} (htarget : target = s.pc + 2 + imm.signExtend 16) :
    Completes (s.branch cond imm) fun t =>
      t.pc = (if p then target else s.pc + 1) ∧ t.retired = s.retired + 1 ∧ t.flags = s.flags ∧
        Frame none s t := by
  subst htarget
  refine ⟨_, State.branch_of_decide h imm, ?_⟩
  by_cases hp : p
  · simp only [if_pos hp]
    exact ⟨rfl, rfl, rfl, s.frame_jumpTo _⟩
  · simp only [if_neg hp]
    exact ⟨rfl, rfl, rfl, s.frame_retire none⟩

/-- Where a branch whose condition decides `p` goes. -/
theorem completes_of_branch_pc {s : State} {cond : Option Bool} {p : Prop} [Decidable p] (h : cond = some (decide p))
    {imm : BitVec 11} {target : Word} (htarget : target = s.pc + 2 + imm.signExtend 16) :
    Completes (s.branch cond imm) fun t => t.pc = if p then target else s.pc + 1 := by
  obtain ⟨t, hnext, hpc, -⟩ := completes_of_branch h htarget
  exact ⟨t, hnext, hpc⟩

-- The branch conditions ------------------------------------------------------------------------------------

/-- BEQ's condition decides `Z = 1` (R108). -/
theorem condEq_of_some {f : Flags} {z : Bool} (hz : f.z = some z) : condEq f = some (decide (z = true)) := by
  simp [condEq, hz]

/-- BNE's condition decides `Z = 0` (R109). -/
theorem condNe_of_some {f : Flags} {z : Bool} (hz : f.z = some z) : condNe f = some (decide (z = false)) := by
  simp [condNe, hz]

/-- BLT's condition decides `N != V` (R110). -/
theorem condLt_of_some {f : Flags} {n v : Bool} (hn : f.n = some n) (hv : f.v = some v) :
    condLt f = some (decide (n ≠ v)) := by
  simp [condLt, hn, hv, bne, Bool.beq_eq_decide_eq]

/-- BGT's condition decides `Z = 0 and N = V` (R111). -/
theorem condGt_of_some {f : Flags} {z n v : Bool} (hz : f.z = some z) (hn : f.n = some n) (hv : f.v = some v) :
    condGt f = some (decide (z = false ∧ n = v)) := by
  simp [condGt, hz, hn, hv, Bool.beq_eq_decide_eq]

/-- BLTU's condition decides `C = 0` (R112). -/
theorem condLtu_of_some {f : Flags} {c : Bool} (hc : f.c = some c) : condLtu f = some (decide (c = false)) := by
  simp [condLtu, hc]

/-- BGTU's condition decides `C = 1 and Z = 0` (R113). -/
theorem condGtu_of_some {f : Flags} {c z : Bool} (hc : f.c = some c) (hz : f.z = some z) :
    condGtu f = some (decide (c = true ∧ z = false)) := by
  simp [condGtu, hc, hz]

/-- BLT's condition is undefined exactly where N or V is (R66). -/
theorem condLt_eq_none_iff {f : Flags} : condLt f = none ↔ f.n = none ∨ f.v = none := by
  cases hn : f.n <;> cases hv : f.v <;> simp [condLt, hn, hv]

/-- BGT's condition is undefined exactly where Z, N or V is (R66). -/
theorem condGt_eq_none_iff {f : Flags} : condGt f = none ↔ f.z = none ∨ f.n = none ∨ f.v = none := by
  cases hz : f.z <;> cases hn : f.n <;> cases hv : f.v <;> simp [condGt, hz, hn, hv]

/-- BGTU's condition is undefined exactly where C or Z is (R66). -/
theorem condGtu_eq_none_iff {f : Flags} : condGtu f = none ↔ f.c = none ∨ f.z = none := by
  cases hc : f.c <;> cases hz : f.z <;> simp [condGtu, hc, hz]

-- The conditions after a comparison ------------------------------------------------------------------------

/-- The sign of `a - b` is wrong exactly where the difference overflows, so `N != V` says that `a` is less (R103). -/
theorem msb_sub_ne_overflows_iff (a b : Word) :
    (a - b).msb ≠ decide (Overflows (a.toInt - b.toInt)) ↔ a.toInt < b.toInt := by
  have ha := a.toInt_lt
  have ha' := a.le_toInt
  have hb := b.toInt_lt
  have hb' := b.le_toInt
  rw [BitVec.msb_eq_toInt, BitVec.toInt_sub, ne_eq, decide_eq_decide, Int.bmod_def]
  omega

/-- After a comparison Z = 1 says that the operands are equal (R103). -/
theorem condEq_aluSub (a b : Word) : condEq (aluSub a b true).flags = some (decide (a = b)) := by
  rw [aluSub_flags_true, condEq_of_some rfl]
  simp only [decide_eq_true_eq, sub_eq_zero]

/-- After a comparison Z = 0 says that the operands differ (R103). -/
theorem condNe_aluSub (a b : Word) : condNe (aluSub a b true).flags = some (decide (a ≠ b)) := by
  rw [aluSub_flags_true, condNe_of_some rfl]
  simp only [decide_eq_false_iff_not, sub_eq_zero]

/-- After a comparison N != V says that the left operand is less as a signed number (R103). -/
theorem condLt_aluSub (a b : Word) : condLt (aluSub a b true).flags = some (decide (a.toInt < b.toInt)) := by
  rw [aluSub_flags_true, condLt_of_some rfl rfl]
  simp only [msb_sub_ne_overflows_iff]

/-- After a comparison Z = 0 and N = V say that the left operand is neither equal nor less as a signed number (R103). -/
theorem condGt_aluSub (a b : Word) : condGt (aluSub a b true).flags = some (decide (b.toInt < a.toInt)) := by
  have heq : a - b = 0 ↔ a.toInt = b.toInt := sub_eq_zero.trans BitVec.toInt_inj.symm
  have hge := not_congr (msb_sub_ne_overflows_iff a b)
  rw [not_ne_iff] at hge
  rw [aluSub_flags_true, condGt_of_some rfl rfl rfl, Option.some_inj, decide_eq_decide, decide_eq_false_iff_not,
    heq, hge]
  omega

/-- After a comparison C = 0, a borrow, says that the left operand is less as an unsigned number (R75, R103). -/
theorem condLtu_aluSub (a b : Word) : condLtu (aluSub a b true).flags = some (decide (a.toNat < b.toNat)) := by
  rw [aluSub_flags_true, condLtu_of_some rfl]
  simp only [decide_eq_false_iff_not, not_le]

/-- After a comparison C = 1 and Z = 0 say that the left operand is neither less nor equal as an unsigned number
(R103). -/
theorem condGtu_aluSub (a b : Word) : condGtu (aluSub a b true).flags = some (decide (b.toNat < a.toNat)) := by
  have heq : a - b = 0 ↔ a.toNat = b.toNat := sub_eq_zero.trans BitVec.toNat_inj.symm
  rw [aluSub_flags_true, condGtu_of_some rfl rfl, Option.some_inj, decide_eq_decide, decide_eq_true_iff,
    decide_eq_false_iff_not, heq]
  omega

-- The jumps and the branches -------------------------------------------------------------------------------

/-- Settles O29: each ends in a taken jump, JALR in one that follows the write of the link; the base is read before
it. -/
theorem jumpResults : Obligations.JumpResults := by
  refine ⟨by decide, by decide, by decide, fun s imm => completes_of_jumpTo rfl,
    fun s rd ra imm => ⟨fun a ha => ⟨?_, ?_⟩, ?_, ?_⟩⟩
  · exact completes_of_jumpTo (State.useReg_of_word ha _)
  · exact completes_of_setReg_jumpTo (State.useReg_of_word ha _)
  · exact exec_faultsWhereUndefined (i := .jr ra imm) nofun rfl
  · exact exec_faultsWhereUndefined (i := .jalr rd ra imm) nofun rfl

/-- Settles O30: both are branches whose condition is that of Z alone. -/
theorem equalityBranchResults : Obligations.EqualityBranchResults := by
  refine ⟨by decide, by decide, fun s imm target htarget => ⟨fun z hz => ⟨?_, ?_⟩, fun hz => ⟨?_, ?_⟩⟩⟩
  · exact completes_of_branch (condEq_of_some hz) htarget
  · exact completes_of_branch (condNe_of_some hz) htarget
  · exact State.branch_of_none hz imm
  · exact State.branch_of_none (congrArg (Option.map _) hz) imm

/-- Settles O31: both are branches; a condition is undefined exactly where a flag that it reads is. -/
theorem signedBranchResults : Obligations.SignedBranchResults := by
  refine ⟨by decide, by decide, fun s imm target htarget => ⟨fun n v hn hv => ⟨?_, fun z hz => ?_⟩,
    fun h => ?_, fun h => ?_⟩⟩
  · exact completes_of_branch (condLt_of_some hn hv) htarget
  · exact completes_of_branch (condGt_of_some hz hn hv) htarget
  · exact State.branch_of_none (condLt_eq_none_iff.mpr h) imm
  · exact State.branch_of_none (condGt_eq_none_iff.mpr h) imm

/-- Settles O32: both are branches; BLTU's condition is that of C alone, BGTU's is undefined where C or Z is. -/
theorem unsignedBranchResults : Obligations.UnsignedBranchResults := by
  refine ⟨by decide, by decide, fun s imm target htarget => ⟨fun c hc => ⟨?_, fun z hz => ?_⟩,
    fun hc => ?_, fun h => ?_⟩⟩
  · exact completes_of_branch (condLtu_of_some hc) htarget
  · exact completes_of_branch (condGtu_of_some hc hz) htarget
  · exact State.branch_of_none (congrArg (Option.map _) hc) imm
  · exact State.branch_of_none (condGtu_eq_none_iff.mpr h) imm

/-- Settles O33: CMP leaves the flags of the ALU's SUB, and on these each branch's condition decides the comparison. -/
theorem branchesDecideTheComparison : Obligations.BranchesDecideTheComparison := by
  intro s ra rb a b imm ha hb
  refine ⟨_, State.useRegs_of_word ha hb _, fun target htarget => ⟨?_, ?_, ?_, ?_, ?_, ?_⟩⟩
  · exact completes_of_branch_pc (condEq_aluSub a b) htarget
  · exact completes_of_branch_pc (condNe_aluSub a b) htarget
  · exact completes_of_branch_pc (condLt_aluSub a b) htarget
  · exact completes_of_branch_pc (condGt_aluSub a b) htarget
  · exact completes_of_branch_pc (condLtu_aluSub a b) htarget
  · exact completes_of_branch_pc (condGtu_aluSub a b) htarget

end Sys2Proof.Machine

namespace Sys2Proof.Machine

-- NOP ------------------------------------------------------------------------------------------------------

/-- Skipping changes PC and the record of retiring alone. -/
theorem State.frame_skip (s : State) : Frame none s s.skip :=
  ⟨fun i _ => State.reg_skip s i, sameMemory_of_eq (by simp) (by simp), by simp [SameHidden],
    by simp [SameOutside]⟩

/-- Settles O34: NOP skips, which does not count as retiring. -/
theorem nopResult : Obligations.NopResult :=
  ⟨by decide, fun s => ⟨s.skip, rfl, s.skip_pc, s.skip_flags, s.skip_retired, s.skip_stale, s.frame_skip⟩⟩

-- HLT and the halt hedge -----------------------------------------------------------------------------------

/-- Halting leaves every register but the one just written, and gives that one its value before or leaves it (R115). -/
theorem State.reg_halt (s : State) (i : RegSel) :
    s.halt.reg i = s.reg i ∨ ∃ old, s.prior = some ⟨some (i, old)⟩ ∧ s.halt.reg i = old :=
  s.reg_haltHedge i

/-- Halting leaves the retirement count, or takes back the instruction that retired just before (R115). -/
theorem State.halt_retired (s : State) :
    s.halt.retired = s.retired ∨ ∃ p, s.prior = some p ∧ s.halt.retired = s.retired - 1 := by
  change s.haltHedge.retired = s.retired ∨ ∃ p, s.prior = some p ∧ s.haltHedge.retired = s.retired - 1
  unfold State.haltHedge
  split
  · exact .inl rfl
  · next p hp =>
    dsimp only
    split
    · exact .inl rfl
    · exact .inr ⟨p, hp, by split <;> rfl⟩

/-- Nothing retired just before: halting changes no register and no count, and makes no choice (R144). -/
theorem State.halt_of_no_prior {s : State} (h : s.prior = none) :
    SameRegisters none s s.halt ∧ s.halt.retired = s.retired ∧ s.halt.choices = s.choices := by
  simp [SameRegisters, State.halt, State.haltHedge_of_no_prior h, State.reg_eq]

/-- An instruction retired just before: halting gives back at most the one register that it wrote (R115). -/
theorem State.sameRegisters_halt {s : State} {w : Option (RegSel × RegVal)} (h : s.prior = some ⟨w⟩) :
    SameRegisters none s s.halt ∨
      ∃ rd old, w = some (rd, old) ∧ s.halt.reg rd = old ∧ SameRegisters (some rd) s s.halt := by
  by_cases hall : ∀ i, s.halt.reg i = s.reg i
  · exact .inl fun i _ => hall i
  · obtain ⟨rd, hrd⟩ := not_forall.mp hall
    obtain ⟨old, hprior, hold⟩ := (s.reg_halt rd).resolve_left hrd
    cases h.symm.trans hprior
    refine .inr ⟨rd, old, rfl, hold, fun i hne => (s.reg_halt i).resolve_right ?_⟩
    rintro ⟨_, hi, -⟩
    cases h.symm.trans hi
    exact hne rfl

/-- What an instruction records for a HLT right after it: it retired, and a register that it wrote held what the record
says (R115). -/
theorem exec_prior {i : Instr} {s t : State} {p : Prior} (h : exec i s = .next t) (hp : t.prior = some p) :
    t.retired = s.retired + 1 ∧ ∀ rd old, p.write = some (rd, old) → old = s.reg rd := by
  cases exec_ending h
  case skip | halt | jump | link => cases hp
  case store | commitFlags | fallThrough =>
    cases hp
    exact ⟨by simp, nofun⟩
  case load | commit | commitAlu =>
    cases hp
    refine ⟨by simp, fun r old hw => ?_⟩
    cases hw
    simp

/-- HLT leaves no such record: it does not retire (R132). -/
theorem ne_hlt_of_prior {i : Instr} {s t : State} {p : Prior} (h : exec i s = .next t) (hp : t.prior = some p) :
    i ≠ .hlt := by
  rintro rfl
  cases h
  cases hp

/-- An instruction and then HLT: a register is as the instruction left it, or it is the destination and holds what it held
before (R115). Outside the destination the value held before is the one the instruction left (O39). -/
theorem exec_reg_halt {i : Instr} {s t : State} (h : exec i s = .next t) (r : RegSel) :
    t.halt.reg r = t.reg r ∨ (destination i = some r ∧ t.halt.reg r = s.reg r) := by
  obtain hkept | ⟨old, hp, hback⟩ := t.reg_halt r
  · exact .inl hkept
  · obtain ⟨-, hrecord⟩ := exec_prior h hp
    have hold : t.halt.reg r = s.reg r := hback.trans (hrecord r old rfl)
    by_cases hdest : destination i = some r
    · exact .inr ⟨hdest, hold⟩
    · exact .inl (hold.trans (onlyTheDestinationIsWritten i s t (ne_hlt_of_prior h hp) h r hdest).symm)

/-- An instruction and then HLT: the retirement count is as the instruction left it or as it found it (R115). -/
theorem exec_halt_retired {i : Instr} {s t : State} (h : exec i s = .next t) :
    t.halt.retired = t.retired ∨ t.halt.retired = s.retired := by
  obtain hkept | ⟨p, hp, hback⟩ := t.halt_retired
  · exact .inl hkept
  · obtain ⟨hretired, -⟩ := exec_prior h hp
    exact .inr (by rw [hback, hretired, Nat.add_sub_cancel])

/-- Settles O35: HLT halts, and what the halt hedge may give back is what the instruction before recorded. -/
theorem hltResult : Obligations.HltResult := by
  refine ⟨by decide, fun s => ⟨s.halt, rfl, ?_⟩, fun i s t h => ⟨t.halt, rfl, ?_⟩⟩
  · refine ⟨s.halt_halted, s.halt_pc, s.halt_flags, sameMemory_of_eq s.halt_imem s.halt_dmem,
      exec_sameHidden (i := .hlt) rfl, s.halt_events, s.halt_draws, State.halt_of_no_prior, fun w hw => ?_⟩
    exact ⟨State.sameRegisters_halt hw, s.halt_retired.imp_right fun ⟨_, _, hback⟩ => hback⟩
  · exact ⟨t.halt_halted, t.halt_flags, sameMemory_of_eq t.halt_imem t.halt_dmem, exec_reg_halt h,
      exec_halt_retired h⟩

end Sys2Proof.Machine

namespace Sys2Proof.Machine

-- How an instruction faults or completes -------------------------------------------------------------------

/-- An instruction that reads an undefined flag faults before it looks at a register (R66, R119). -/
theorem exec_of_flags_undefined {i : Instr} {s : State} (hflags : flagRead i.mnemonic s.flags = some none) :
    exec i s = .fault (.undefinedFlags s.site) := by
  cases i
  case adc | sbc => exact State.useFlag_of_none (Option.some.inj hflags) _
  case beq | bne | blt | bgt | bltu | bgtu => exact State.branch_of_none (Option.some.inj hflags) _
  all_goals cases hflags

/-- With its operand defined, an instruction that uses one register completes. -/
theorem State.useReg_completes {s : State} {ra : RegSel} (ha : (s.reg ra).word?.isSome = true)
    (f : Word → State) : ∃ t, (s.useReg ra fun a => .next (f a)) = .next t := by
  obtain ⟨a, ha⟩ := Option.isSome_iff_exists.mp ha
  exact ⟨f a, State.useReg_of_word ha _⟩

/-- With both operands defined, an instruction that uses two registers completes. -/
theorem State.useRegs_completes {s : State} {ra rb : RegSel} (ha : (s.reg ra).word?.isSome = true)
    (hb : (s.reg rb).word?.isSome = true) (f : Word → Word → State) :
    ∃ t, (s.useRegs ra rb fun a b => .next (f a b)) = .next t := by
  obtain ⟨a, ha⟩ := Option.isSome_iff_exists.mp ha
  obtain ⟨b, hb⟩ := Option.isSome_iff_exists.mp hb
  exact ⟨f a b, State.useRegs_of_word ha hb _⟩

/-- A branch whose condition is defined completes, taken or not (R103). -/
theorem State.branch_completes {s : State} {cond : Option Bool} (h : cond ≠ none) (imm : BitVec 11) :
    ∃ t, s.branch cond imm = .next t := by
  obtain ⟨b, rfl⟩ := Option.ne_none_iff_exists'.mp h
  exact ⟨_, State.branch_of_decide (p := b = true) (by simp) imm⟩

/-- An instruction whose flags and ports are all defined completes (R119, R120). -/
theorem exec_completes {i : Instr} {s : State} (hflags : flagRead i.mnemonic s.flags ≠ some none)
    (hA : Defined s (portA i)) (hB : Defined s (portB i)) : ∃ t, exec i s = .next t := by
  cases i
  case nop | hlt | li | lui | jmp => exact ⟨_, rfl⟩
  case load | not | cmpi | addi | subi | andi | ori | xori | jr | jalr => exact State.useReg_completes (hA _ rfl) _
  case store | cmp | add | sub | and | or | xor => exact State.useRegs_completes (hA _ rfl) (hB _ rfl) _
  case adc | sbc =>
    obtain ⟨c, hc⟩ := Option.ne_none_iff_exists'.mp (fun hc => hflags (congrArg some hc))
    obtain ⟨t, ht⟩ := State.useRegs_completes (hA _ rfl) (hB _ rfl) _
    exact ⟨t, (State.useFlag_of_some hc _).trans ht⟩
  case beq | bne | blt | bgt | bltu | bgtu =>
    exact State.branch_completes (fun hc => hflags (congrArg some hc)) _

/-- Settles O36, one lemma per check, in the order of R119. -/
theorem everyInstructionCompletesOrFaultsInOrder : Obligations.EveryInstructionCompletesOrFaultsInOrder := by
  intro i s
  refine ⟨exec_of_flags_undefined, fun hflags => ⟨fun ra => exec_of_portA_undefined hflags, fun hA => ⟨?_, ?_⟩⟩⟩
  · exact fun rb => exec_of_portB_undefined hflags hA
  · exact exec_completes hflags hA

-- Which instruction halts ----------------------------------------------------------------------------------

/-- An instruction other than HLT leaves the halted bit (R30, R128). -/
theorem exec_halted_of_ne_hlt {i : Instr} {s t : State} (hhlt : i ≠ .hlt) (h : exec i s = .next t) :
    t.halted = s.halted := by
  cases i
  case hlt => exact absurd rfl hhlt
  case nop | li | lui | jmp => cases h; rfl
  case load | not | cmpi | addi | subi | andi | ori | xori | jr | jalr =>
    obtain ⟨a, -, h⟩ := State.useReg_next.mp h
    cases h; simp
  case store =>
    obtain ⟨base, -, h⟩ := State.useReg_next.mp h
    obtain ⟨v, -, h⟩ := State.useReg_next.mp h
    cases h; simp
  case add | sub | and | or | xor | cmp =>
    obtain ⟨a, b, -, -, h⟩ := State.useRegs_next.mp h
    cases h; rfl
  case adc | sbc =>
    obtain ⟨c, -, h⟩ := State.useFlag_next.mp h
    obtain ⟨a, b, -, -, h⟩ := State.useRegs_next.mp h
    cases h; rfl
  case beq | bne | blt | bgt | bltu | bgtu =>
    obtain ⟨-, rfl⟩ | ⟨-, rfl⟩ := State.branch_next.mp h <;> rfl

/-- Settles O41: the hidden state is every instruction's frame, and HLT alone sets the halted bit. -/
theorem onlyHltHalts : Obligations.OnlyHltHalts := by
  intro i s t h
  refine ⟨exec_sameHidden h, ?_⟩
  by_cases hhlt : i = .hlt
  · subst hhlt
    cases h
    simp
  · simp [hhlt, exec_halted_of_ne_hlt hhlt h]

-- A fault in a cycle ---------------------------------------------------------------------------------------

/-- Nothing was latched between `s` and `t`: registers, flags, PC, pipeline registers, the halted bit, the reset input and the
cycle count are as they were (R131 step (6)). -/
def Unlatched (s t : State) : Prop :=
  t.regs = s.regs ∧ t.flags = s.flags ∧ t.pc = s.pc ∧ t.ifid = s.ifid ∧ t.idex = s.idex ∧ t.exmem = s.exmem ∧
    t.memwb = s.memwb ∧ t.halted = s.halted ∧ t.cycles = s.cycles ∧ t.rst = s.rst

/-- MEM's access latches nothing (R133). -/
theorem memStage_unlatched {s : State} {m : MemOut} (h : memStage s = .ok m) : Unlatched s m.after := by
  obtain ⟨-, ⟨-, e, -, rfl⟩ | ⟨-, -, e, v, -, -, rfl⟩ | ⟨-, -, rfl⟩⟩ := memStage_ok h <;> simp [memLatch, Unlatched]

/-- A cycle that raises a fault stops with what WB left and, where MEM answers, with its access made (R118). -/
theorem cycle_of_faulted {s : State} {f : Fault} (hrunning : s.faulted = none) (h : (cycle s).faulted = some f) :
    ∃ u, cycle s = u.stopWith f ∧ Unlatched (wbStage s) u ∧ ∀ m, memStage (wbStage s) = .ok m → u = m.after := by
  obtain ⟨cause, herror, hcycle⟩ | ⟨m, g, hm, -, hcycle⟩ | ⟨m, x, hm, -, hcycle⟩ := cycle_cases s
  · rw [hcycle, State.stopWith_faulted, Option.some.injEq] at h
    exact ⟨wbStage s, h ▸ hcycle, by simp [Unlatched], by simp [herror]⟩
  · rw [hcycle, State.stopWith_faulted, Option.some.injEq] at h
    exact ⟨m.after, h ▸ hcycle, memStage_unlatched hm, by simp [hm]⟩
  · obtain ⟨-, -, -, -, -, -, -, -, -, hfaulted⟩ := memStage_after hm
    simp [hcycle, hfaulted, hrunning] at h

/-- The stop after a fault answers that fault while reset is released (R118). -/
theorem step_of_faulted {s : State} {f : Fault} (hrst : s.rst = false) (hfaulted : s.faulted = some f) :
    step s = .fault f :=
  step_of_gate (by simp [State.gate, hrst, hfaulted])

/-- Settles O56: the cycle stops where WB and MEM left it, the gate answers the stop, and a reset cycle clears it. -/
theorem faultStopsWithNothingLatched : Obligations.FaultStopsWithNothingLatched := by
  intro s f hrst hrunning hfault
  obtain ⟨u, hcycle, ⟨hregs, hflags, hpc, hifid, hidex, hexmem, hmemwb, hhalted, hcycles, hrst'⟩, hmem⟩ :=
    cycle_of_faulted hrunning hfault
  rw [hcycle]
  refine ⟨hregs, hflags, hpc, hifid, hidex, hexmem, hmemwb, hhalted, hcycles, fun m hm => ?_, ?_, ?_⟩
  · cases hmem m hm
    exact ⟨rfl, rfl, rfl⟩
  · exact step_of_faulted (hrst'.trans hrst) rfl
  · exact ⟨_, step_of_rst rfl, State.resetCycle_faulted _⟩

-- The order of EX's checks ---------------------------------------------------------------------------------

/-- EX raises the control word's fault before it looks at a port (R119). -/
theorem exFault_of_ctl_fault {x : IdEx} {c : CtlFault} (h : x.ctl.fault = some c) :
    exFault x = some (c.raise (exSite x)) := by
  simp [exFault, h]

/-- With no fault in the control word, EX raises that of an undefined port A that is used (R119). -/
theorem exFault_of_portA_undefined {x : IdEx} (hctl : x.ctl.fault = none) (huse : x.ctl.usesA = true)
    (hundef : x.a.word? = none) : exFault x = some (.undefinedRegister (exSelector x selA) (exSite x)) := by
  simp [exFault, hctl, huse, hundef]

/-- With nothing to raise for port A either, EX raises the fault of an undefined port B that is used (R119). -/
theorem exFault_of_portB_undefined {x : IdEx} (hctl : x.ctl.fault = none)
    (hA : x.ctl.usesA = true → x.a.word?.isSome = true) (huse : x.ctl.usesB = true) (hundef : x.b.word? = none) :
    exFault x = some (.undefinedRegister (exSelector x selB) (exSite x)) := by
  have hpass : ¬(x.ctl.usesA = true ∧ x.a.word? = none) := fun ⟨hused, hnone⟩ => by simpa [hnone] using hA hused
  simp [exFault, hctl, hpass, huse, hundef]

/-- Settles O57: one lemma per check, and no fault where none of the three applies. -/
theorem faultOrderInEx : Obligations.FaultOrderInEx := by
  refine fun x => ⟨fun c => exFault_of_ctl_fault, fun hctl => ⟨exFault_of_portA_undefined hctl, fun hA => ?_⟩⟩
  have hportA : x.ctl.usesA = true → x.a.word?.isSome = true := fun huse => hA.resolve_left (by simp [huse])
  refine ⟨exFault_of_portB_undefined hctl hportA, fun hB => ?_⟩
  exact (exFault_eq_none_iff x).mpr ⟨hctl, hportA, fun huse => hB.resolve_left (by simp [huse])⟩

end Sys2Proof.Machine

namespace Sys2Proof.Machine

-- The reset cycle ------------------------------------------------------------------------------------------

/-- Holding reset for another cycle changes nothing (R129). -/
theorem State.resetCycle_resetCycle (s : State) : s.resetCycle.resetCycle = s.resetCycle := rfl

/-- However long reset is held after its first cycle, the state is the one the first cycle left (R129). -/
theorem State.resetCycles_of_resetCycle (s : State) (n : Nat) : s.resetCycle.resetCycles n = s.resetCycle := by
  induction n with
  | zero => rfl
  | succ n ih => rw [State.resetCycles, State.resetCycle_resetCycle, ih]

/-- A reset of any length is a reset of one cycle (R129). -/
theorem State.pulseReset_succ (s : State) (n : Nat) : s.pulseReset (n + 1) = s.pulseReset 1 := by
  simp only [State.pulseReset, State.resetCycles, State.resetCycles_of_resetCycle]

/-- Settles O13: each field is one entry of the reset table, and a second reset cycle finds the table as it is. -/
theorem resetCycleRestoresTheTable : Obligations.ResetCycleRestoresTheTable := by
  intro s hrst
  have hheld : step s.resetCycle = .next s.resetCycle := by
    rw [step_of_rst (by simp [hrst]), State.resetCycle_resetCycle]
  exact ⟨s.resetCycle, step_of_rst hrst, rfl, rfl, rfl, rfl, rfl, rfl, rfl, rfl, rfl, rfl, rfl, rfl, rfl, rfl, hheld,
    s.pulseReset_succ⟩

-- The rewritten words --------------------------------------------------------------------------------------

/-- The word fetched is one of the candidates (R143). -/
theorem State.fetchWord_mem (s : State) : s.fetchWord ∈ s.fetchCandidates := by
  have hne : s.fetchCandidates ≠ [] := by simp [State.fetchCandidates]
  unfold State.fetchWord
  split
  · next w hw => simp [hw]
  · next ws _ =>
    have hlt : Config.freeChoice s.choices % s.fetchCandidates.length < s.fetchCandidates.length :=
      Nat.mod_lt _ (List.length_pos_iff.mpr hne)
    simp [List.getElem?_eq_getElem hlt]

/-- A candidate is the word in instruction memory or one that a remembered store replaced (R143). -/
theorem State.mem_fetchCandidates {s : State} {w : Option Word} :
    w ∈ s.fetchCandidates ↔
      w = (Memory.readWord s.imem s.pc).word? ∨ ∃ x ∈ s.stale, x.addr = s.pc ∧ w = x.old := by
  simp only [State.fetchCandidates, List.mem_cons, List.mem_map, List.mem_filter, beq_iff_eq, and_assoc, eq_comm (a := w)]

/-- The words still remembered when an instruction begins are those whose count does not run out with it (R143). -/
theorem State.mem_beginInstr_stale {s : State} {w : Word} {y : StaleWord} :
    y ∈ (s.beginInstr w).stale ↔
      ∃ x ∈ s.stale, y.addr = x.addr ∧ y.old = x.old ∧ y.left + 1 = x.left ∧ y.left ≠ 0 := by
  simp only [State.beginInstr_stale, List.mem_filter, List.mem_map, bne_iff_ne, ne_eq]
  constructor
  · rintro ⟨⟨x, hx, rfl⟩, hleft⟩
    exact ⟨x, hx, rfl, rfl, Nat.sub_add_cancel (by simp only [StaleWord.tick] at hleft; omega), hleft⟩
  · rintro ⟨x, hx, haddr, hold, hcount, hleft⟩
    refine ⟨⟨x, hx, ?_⟩, hleft⟩
    rw [StaleWord.tick, ← haddr, ← hold, ← hcount, Nat.add_sub_cancel]

/-- Beginning an instruction changes nothing that a STORE's note depends on. -/
theorem NotedByStore.of_beginInstr {i : Instr} {s : State} {w : Word} {y : StaleWord}
    (h : NotedByStore i (s.beginInstr w) y) : NotedByStore i s y := h

/-- What is remembered after an instruction was remembered when it began, or its own STORE noted it (R143). -/
theorem exec_mem_stale {i : Instr} {s t : State} (h : exec i s = .next t) {y : StaleWord} (hy : y ∈ t.stale) :
    y ∈ s.stale ∨ NotedByStore i s y := by
  obtain hkept | hforgotten | ⟨z, hnoted, hadded⟩ := exec_stale h
  · exact .inl (hkept ▸ hy)
  · simp [hforgotten] at hy
  · rw [hadded, List.mem_append, List.mem_singleton] at hy
    exact hy.imp_right fun (heq : y = z) => heq ▸ hnoted

/-- The count of a word that a STORE notes is 2 (R143). -/
theorem NotedByStore.left_eq {i : Instr} {s : State} {y : StaleWord} (h : NotedByStore i s y) : y.left = 2 := by
  obtain ⟨-, -, -, -, -, -, -, -, rfl⟩ := h
  rfl

/-- A cycle remembers no word that was not remembered before it. -/
theorem cycle_mem_stale {s : State} {y : StaleWord} (hy : y ∈ (cycle s).stale) : y ∈ s.stale := by
  have hmem {m : MemOut} (hm : memStage (wbStage s) = .ok m) : m.after.stale = s.stale := by
    obtain ⟨-, ⟨-, e, -, rfl⟩ | ⟨-, -, e, v, -, -, rfl⟩ | ⟨-, -, rfl⟩⟩ := memStage_ok hm <;> simp [memLatch]
  obtain ⟨_, -, hcycle⟩ | ⟨m, _, hm, -, hcycle⟩ | ⟨m, _, -, -, hcycle⟩ := cycle_cases s
  · simpa [hcycle] using hy
  · simpa [hcycle, hmem hm] using hy
  · simp [hcycle] at hy

/-- After a step of the instruction level a remembered word is one from before, a count older, or its own STORE's. -/
theorem step_mem_stale {s t : State} (hlevel : s.stepping = .instruction) (hstep : step s = .next t) {y : StaleWord}
    (hy : y ∈ t.stale) :
    (∃ x ∈ s.stale, y.addr = x.addr ∧ y.old = x.old ∧ y.left + 1 = x.left ∧ y.left ≠ 0) ∨
      ∃ w i, s.fetchWord = some w ∧ decode w = .ok i ∧ NotedByStore i s y := by
  obtain ⟨-, rfl⟩ | ⟨-, -, -, -, ⟨-, -, w, i, hw, hi, hexec⟩ | ⟨hcycle, -⟩⟩ := step_next hstep
  · simp at hy
  · obtain hkept | hnoted := exec_mem_stale hexec hy
    · exact .inl (State.mem_beginInstr_stale.mp hkept)
    · exact .inr ⟨w, i, hw, hi, hnoted.of_beginInstr⟩
  · rw [hlevel] at hcycle
    cases hcycle

/-- Every step keeps the counts of the remembered words at 2 or less (R143). -/
theorem step_staleBounded {s t : State} (hs : StaleBounded s) (hstep : step s = .next t) : StaleBounded t := by
  intro y hy
  cases hlevel : s.stepping with
  | instruction =>
    obtain ⟨x, hx, -, -, hcount, -⟩ | ⟨_, _, -, -, hnoted⟩ := step_mem_stale hlevel hstep hy
    · have := hs x hx
      omega
    · exact hnoted.left_eq.le
  | cycle =>
    obtain ⟨-, rfl⟩ | ⟨-, -, -, -, ⟨hinstr, -⟩ | ⟨-, rfl⟩⟩ := step_next hstep
    · simp at hy
    · simp [hlevel] at hinstr
    · exact hs y (cycle_mem_stale hy)

/-- A word that two instructions have passed is forgotten (R143). -/
theorem State.beginInstr_beginInstr_stale {s : State} (hs : StaleBounded s) (w w' : Word) :
    ((s.beginInstr w).beginInstr w').stale = [] := by
  refine List.eq_nil_iff_forall_not_mem.mpr fun z hz => ?_
  obtain ⟨y, hy, -, -, hcount, hleft⟩ := State.mem_beginInstr_stale.mp hz
  obtain ⟨x, hx, -, -, hcount', -⟩ := State.mem_beginInstr_stale.mp hy
  have := hs x hx
  omega

/-- Settles O45: the candidates are the word in memory and the remembered ones, and beginning an instruction ages each of
these by one. -/
theorem rewrittenWordsAreStaleForTwoInstructions : Obligations.RewrittenWordsAreStaleForTwoInstructions :=
  ⟨State.fetchWord_mem, fun s => State.mem_fetchCandidates.mp s.fetchWord_mem, fun _ _ => step_staleBounded,
    fun _ _ hlevel hstep _ => step_mem_stale hlevel hstep, fun _ w w' hs => State.beginInstr_beginInstr_stale hs w w'⟩

end Sys2Proof.Machine

namespace Sys2Proof.Machine

-- The hazard unit ------------------------------------------------------------------------------------------

/-- A producer of `r` writes back, and to `r` (R15). -/
theorem produces_iff {c : ControlWord} {sel : Option RegSel} {r : RegSel} :
    produces c sel r = true ↔ c.wben = true ∧ sel = some r := by
  simp [produces]

/-- NOPCTL produces nothing (R15). -/
@[simp] theorem produces_nopCtl (sel : Option RegSel) (r : RegSel) : produces nopCtl sel r = false := rfl

/-- A producer in EX is forwarded where its whole value is the ALU's; else it stalls (R137). -/
theorem resolve_of_producer_in_ex {x : IdEx} {r : RegSel} (hx : produces x.ctl x.selC r = true) (y : ExMem) :
    resolve x y r =
      if x.ctl.wbSrc = .alu ∧ x.ctl.writeLo = true ∧ x.ctl.writeHi = true then .exFwd else .stall := by
  simp [resolve, hx, and_assoc]

/-- A producer in MEM with none in EX is forwarded where it writes both bytes; else it stalls (R137). -/
theorem resolve_of_producer_in_mem {x : IdEx} {y : ExMem} {r : RegSel} (hx : produces x.ctl x.selC r = false)
    (hy : produces y.ctl y.selC r = true) :
    resolve x y r = if y.ctl.writeLo = true ∧ y.ctl.writeHi = true then .memFwd else .stall := by
  simp [resolve, hx, hy]

/-- With no producer in EX or MEM the register is read (R137). -/
theorem resolve_of_no_producer {x : IdEx} {y : ExMem} {r : RegSel} (hx : produces x.ctl x.selC r = false)
    (hy : produces y.ctl y.selC r = false) : resolve x y r = .fromRegister := by
  simp [resolve, hx, hy]

/-- Settles O50, one lemma per producer. -/
theorem hazardUnitResolutions : Obligations.HazardUnitResolutions := by
  intro x y r
  simp only [← produces_iff, Bool.not_eq_true]
  exact ⟨fun hx => resolve_of_producer_in_ex hx y, fun hx =>
    ⟨resolve_of_producer_in_mem hx, resolve_of_no_producer hx⟩⟩

/-- ID stalls where the hazard unit resolves either of its operands to a stall, or the flags hazard holds (R135). -/
theorem stallSignal_eq_true_iff (s : State) :
    stallSignal s = true ↔ resolve s.idex s.exmem (selA (idWord s.ifid)) = .stall ∨
      resolve s.idex s.exmem (selB (idWord s.ifid)) = .stall ∨ flagsHazard (idWord s.ifid) s.idex = true := by
  simp [stallSignal, or_assoc]

/-- A stall of one of ID's operands stalls ID (R135). -/
theorem stallSignal_of_operand {s : State} {r : RegSel} (hr : r = selA (idWord s.ifid) ∨ r = selB (idWord s.ifid))
    (hstall : resolve s.idex s.exmem r = .stall) : stallSignal s = true :=
  (stallSignal_eq_true_iff s).mpr <| by
    obtain rfl | rfl := hr
    · exact .inl hstall
    · exact .inr (.inl hstall)

/-- With NOPCTL in EX, ID does not stall unless a register's producer in MEM makes it. -/
theorem stallSignal_of_nop_in_ex {s : State} (hidex : s.idex.ctl = nopCtl)
    (hregs : ∀ r, resolve s.idex s.exmem r ≠ .stall) : stallSignal s = false := by
  simp [stallSignal, hregs, flagsHazard, hidex, nopCtl]

/-- With NOPCTL in EX and in MEM every operand is read from its register (R137). -/
theorem resolve_of_nops {x : IdEx} {y : ExMem} (hx : x.ctl = nopCtl) (hy : y.ctl = nopCtl) (r : RegSel) :
    resolve x y r = .fromRegister :=
  resolve_of_no_producer (by simp [hx]) (by simp [hy])

/-- With NOPCTL in EX and in MEM, ID does not stall. -/
theorem stallSignal_of_nops {s : State} (hidex : s.idex.ctl = nopCtl) (hexmem : s.exmem.ctl = nopCtl) :
    stallSignal s = false :=
  stallSignal_of_nop_in_ex hidex fun r => by simp [resolve_of_nops hidex hexmem]

/-- With NOPCTL in EX and a whole-word producer in MEM, ID does not stall (R137). -/
theorem stallSignal_of_whole_word_in_mem {s : State} (hidex : s.idex.ctl = nopCtl)
    (hlo : s.exmem.ctl.writeLo = true) (hhi : s.exmem.ctl.writeHi = true) : stallSignal s = false := by
  refine stallSignal_of_nop_in_ex hidex fun r => ?_
  cases hy : produces s.exmem.ctl s.exmem.selC r with
  | true => simp [resolve_of_producer_in_mem (x := s.idex) (by simp [hidex]) hy, hlo, hhi]
  | false => simp [resolve_of_no_producer (x := s.idex) (by simp [hidex]) hy]

-- What the stages of a cycle leave -------------------------------------------------------------------------

/-- A cycle whose MEM and EX both answer latches what they give (R131). -/
theorem cycle_eq_latch {s : State} {m : MemOut} {x : ExOut} (hm : memStage (wbStage s) = .ok m)
    (hx : exStage s.pc s.idex = .ok x) : cycle s = latch s m x := by
  simp [cycle, hm, hx]

/-- EX answers with a jump exactly where the control word asks for one (R134). -/
theorem exStage_jump_isSome {pc : Word} {x : IdEx} {o : ExOut} (h : exStage pc x = .ok o) :
    o.jump.isSome = x.ctl.j := by
  obtain ⟨-, -, -, -, ⟨hj, y, -, hjump⟩ | ⟨hj, hjump⟩⟩ := exStage_ok h <;> simp [hj, hjump]

/-- A flush and a stall leave a bubble for EX (R139, R140). -/
theorem idStage_of_squash {s : State} {jump : Bool} (h : jump = true ∨ stallSignal s = true) (regs : Vector RegVal 8)
    (exFwd memFwd : RegVal) : idStage s regs exFwd memFwd jump = .bubble := by
  simp [idStage, h]

/-- Settles O55: ID answers a bubble, and what EX and MEM give is latched whatever ID does. -/
theorem flushAndStallSquashDecode : Obligations.FlushAndStallSquashDecode := by
  intro s m x hm hx hsquash
  rw [← exStage_jump_isSome hx] at hsquash
  rw [cycle_eq_latch hm hx]
  exact ⟨by rw [latch_idex, idStage_of_squash hsquash, IdEx.bubble], latch_exmem .., latch_memwb ..⟩

/-- A cycle that latches moves the instruction in EX on to MEM, its control word and destination with it (R134). -/
theorem cycle_exmem {s : State} (h : Latches s) :
    (cycle s).exmem.ctl = s.idex.ctl ∧ (cycle s).exmem.selC = s.idex.selC := by
  obtain ⟨m, x, -, hx, hcycle⟩ := cycle_of_latches h
  obtain ⟨-, hexmem, -⟩ := exStage_ok hx
  rw [hcycle, latch_exmem, hexmem]
  exact ⟨rfl, rfl⟩

/-- A flush and a stall leave a bubble in ID/EX (R139, R140). -/
theorem cycle_idex_of_squash {s : State} (h : Latches s) (hsquash : s.idex.ctl.j = true ∨ stallSignal s = true) :
    (cycle s).idex = .bubble := by
  obtain ⟨m, x, -, hx, hcycle⟩ := cycle_of_latches h
  rw [← exStage_jump_isSome hx] at hsquash
  rw [hcycle, latch_idex, idStage_of_squash hsquash]

/-- A cycle that latches leaves a word of memory or a bubble for ID, as IF's rule says (R136). -/
theorem cycle_ifStage {s : State} (h : Latches s) : ∃ x, exStage s.pc s.idex = .ok x ∧
    (cycle s).pc = (ifStage s (cycle s).imem x.jump).1 ∧ (cycle s).ifid = (ifStage s (cycle s).imem x.jump).2 := by
  obtain ⟨m, x, -, hx, hcycle⟩ := cycle_of_latches h
  exact ⟨x, hx, by rw [hcycle, latch_pc, latch_imem], by rw [hcycle, latch_ifid, latch_imem]⟩

/-- A jump in EX loads PC with its target and leaves a bubble in IF/ID (R136). -/
theorem cycle_of_jump {s : State} (h : Latches s) (hj : s.idex.ctl.j = true) : ∃ y,
    (alu s.idex.ctl.aluOp s.idex.a (rightOperand s.idex.ctl.selRight s.idex.b s.idex.ins) s.idex.ctl.cin).y = some y ∧
      (cycle s).pc = jumpTarget s.idex.ctl s.pc y ∧ (cycle s).ifid = ⟨some 0, (cycle s).pc, none⟩ := by
  obtain ⟨x, hx, hpc, hifid⟩ := cycle_ifStage h
  obtain ⟨-, -, -, -, ⟨-, y, hy, hjump⟩ | ⟨hno, -⟩⟩ := exStage_ok hx
  · rw [hjump] at hpc hifid
    exact ⟨y, hy, hpc, by rw [hifid, hpc]; rfl⟩
  · simp [hj] at hno

/-- Where EX does not jump, IF holds or fetches (R136). -/
theorem cycle_ifStage_of_no_jump {s : State} (h : Latches s) (hj : s.idex.ctl.j = false) :
    (cycle s).pc = (ifStage s (cycle s).imem none).1 ∧ (cycle s).ifid = (ifStage s (cycle s).imem none).2 := by
  obtain ⟨x, hx, hfetch⟩ := cycle_ifStage h
  have hjump : x.jump = none := by simpa [hj] using exStage_jump_isSome hx
  rwa [hjump] at hfetch

/-- A stall without a jump holds PC and IF/ID (R136, R140). -/
theorem cycle_of_stall {s : State} (h : Latches s) (hj : s.idex.ctl.j = false) (hstall : stallSignal s = true) :
    (cycle s).pc = s.pc ∧ (cycle s).ifid = s.ifid := by
  simpa [ifStage, hstall] using cycle_ifStage_of_no_jump h hj

/-- With neither a jump nor a stall, the word at PC is fetched from memory as MEM left it, and PC advances (R136). -/
theorem cycle_of_fetch {s : State} (h : Latches s) (hj : s.idex.ctl.j = false) (hstall : stallSignal s = false) :
    (cycle s).pc = s.pc + 1 ∧ (cycle s).ifid = ⟨(Memory.readWord (cycle s).imem s.pc).word?, s.pc, none⟩ := by
  simpa [ifStage, hstall] using cycle_ifStage_of_no_jump h hj

/-- Settles O54, one lemma per case of IF. -/
theorem fetchStageRules : Obligations.FetchStageRules := by
  refine fun s h => ⟨fun hj => ?_, cycle_of_stall h, fun hj hstall => ?_⟩
  · obtain ⟨y, hy, hpc, hifid⟩ := cycle_of_jump h hj
    exact ⟨y, hy, hpc, by rw [hifid], by rw [hifid]⟩
  · obtain ⟨hpc, hifid⟩ := cycle_of_fetch h hj hstall
    exact ⟨hpc, by rw [hifid], by rw [hifid]⟩

-- Forwarding -----------------------------------------------------------------------------------------------

/-- A write of both bytes by a producer of `r` leaves the whole value in `r` (R132). -/
theorem regOf_portC_whole_word {c : ControlWord} {sel : Option RegSel} {r : RegSel} (hr : produces c sel r = true)
    (hlo : c.writeLo = true) (hhi : c.writeHi = true) (regs : Vector RegVal 8) (v : RegVal) :
    regOf (portC regs c sel v) r = v := by
  rw [regOf_portC, if_pos hr, hlo, hhi, gateBytes_both]

/-- A write by what does not produce `r` leaves `r` (R132). -/
theorem regOf_portC_of_not_produces {c : ControlWord} {sel : Option RegSel} {r : RegSel}
    (hr : produces c sel r = false) (regs : Vector RegVal 8) (v : RegVal) :
    regOf (portC regs c sel v) r = regOf regs r := by
  rw [regOf_portC, hr, if_neg Bool.false_ne_true]

/-- Where the hazard unit does not stall, the operand is the register's value once the writes in flight are made
(R137, R142). -/
theorem operandValue_eq_drained {s : State} {m : MemOut} {x : ExOut} (hm : memStage (wbStage s) = .ok m)
    (hx : exStage s.pc s.idex = .ok x) (d : RegVal) {r : RegSel} (hres : resolve s.idex s.exmem r ≠ .stall) :
    operandValue m.after.regs x.fwd m.fwd r (resolve s.idex s.exmem r) =
      regOf (drained m.after.regs m.memwb x.exmem d) r := by
  obtain ⟨hctl, hsel, -, hmfwd⟩ := memStage_memwb hm
  obtain ⟨-, hexmem, -, hxfwd, -⟩ := exStage_ok hx
  simp only [wbStage_exmem] at hctl hsel
  unfold drained
  cases hex : produces s.idex.ctl s.idex.selC r with
  | true =>
    rw [resolve_of_producer_in_ex hex, ite_ne_right_iff] at hres
    obtain ⟨hforward, -⟩ := hres
    have ⟨hsrc, hlo, hhi⟩ := hforward
    rw [resolve_of_producer_in_ex hex, if_pos hforward, hexmem, regOf_portC_whole_word hex hlo hhi]
    simp [operandValue, writeBackValue, hsrc, hxfwd]
  | false =>
    rw [hexmem, regOf_portC_of_not_produces hex, hctl, hsel]
    cases hmem : produces s.exmem.ctl s.exmem.selC r with
    | true =>
      rw [resolve_of_producer_in_mem hex hmem, ite_ne_right_iff] at hres
      obtain ⟨hforward, -⟩ := hres
      have ⟨hlo, hhi⟩ := hforward
      rw [resolve_of_producer_in_mem hex hmem, if_pos hforward, regOf_portC_whole_word hmem hlo hhi]
      simp [operandValue, hmfwd, hctl]
    | false => rw [resolve_of_no_producer hex hmem, regOf_portC_of_not_produces hmem, operandValue]

/-- ID without a flush or a stall takes the two operands as the hazard unit resolves them (R135). -/
theorem idStage_operands {s : State} (hstall : stallSignal s = false) (regs : Vector RegVal 8)
    (exFwd memFwd : RegVal) :
    (idStage s regs exFwd memFwd false).a = operandValue regs exFwd memFwd (selA (idWord s.ifid))
        (resolve s.idex s.exmem (selA (idWord s.ifid))) ∧
      (idStage s regs exFwd memFwd false).b = operandValue regs exFwd memFwd (selB (idWord s.ifid))
        (resolve s.idex s.exmem (selB (idWord s.ifid))) := by
  simp [idStage, hstall]

/-- Settles O51: the hazard unit picks the youngest write in flight, and ID/EX takes what it picks. -/
theorem forwardedOperandIsTheYoungestValue : Obligations.ForwardedOperandIsTheYoungestValue := by
  rintro s m x d regs hm hx rfl
  refine ⟨fun r => operandValue_eq_drained hm hx d, fun hj hstall => ?_⟩
  have hA : resolve s.idex s.exmem (selA (idWord s.ifid)) ≠ .stall := fun h => by
    simp [stallSignal_of_operand (.inl rfl) h] at hstall
  have hB : resolve s.idex s.exmem (selB (idWord s.ifid)) ≠ .stall := fun h => by
    simp [stallSignal_of_operand (.inr rfl) h] at hstall
  obtain ⟨ha, hb⟩ := idStage_operands hstall m.after.regs x.fwd m.fwd
  rw [cycle_eq_latch hm hx, latch_idex, exStage_jump_isSome hx, hj, ha, hb]
  exact ⟨operandValue_eq_drained hm hx d hA, operandValue_eq_drained hm hx d hB⟩

-- A NOP in ID ----------------------------------------------------------------------------------------------

/-- A word that decodes has the mnemonic of its opcode and that mnemonic's operands. -/
theorem decode_eq_ok_iff {w : Word} {i : Instr} :
    decode w = .ok i ↔ ∃ m, mnemonicOf (opField w) = some m ∧ operandsOf m w = i := by
  unfold decode
  cases mnemonicOf (opField w) <;> simp

/-- IF/ID holds a NOP. -/
def HoldsNop (x : IfId) : Prop := ∃ w, x.ins = some w ∧ decode w = .ok .nop

/-- The word 0, which IF leaves for ID after a jump, is a NOP (R61). -/
theorem holdsNop_of_zero {x : IfId} (h : x.ins = some 0) : HoldsNop x := ⟨0, h, by decide⟩

/-- A NOP decodes to NOPCTL, whatever its ignored bits are (R61, R65). -/
theorem decodeFetched_of_holdsNop {x : IfId} (h : HoldsNop x) (f : Flags) (rst : Bool) :
    decodeFetched x f rst = nopCtl := by
  obtain ⟨w, hins, hnop⟩ := h
  obtain ⟨m, hm, hoperands⟩ := decode_eq_ok_iff.mp hnop
  rw [decodeFetched_of_word hins]
  cases rst
  case true => exact decodeControl_of_rst ..
  case false =>
    cases m <;> cases hoperands
    exact decodeControl_of_no_flag hm rfl

/-- With a NOP in IF/ID, ID gives NOPCTL: by a flush, by a stall or by decoding it. -/
theorem idStage_ctl_of_holdsNop {s : State} (h : HoldsNop s.ifid) (regs : Vector RegVal 8) (exFwd memFwd : RegVal)
    (jump : Bool) : (idStage s regs exFwd memFwd jump).ctl = nopCtl := by
  unfold idStage
  split
  · rfl
  · exact decodeFetched_of_holdsNop h ..

-- How long a stall lasts -----------------------------------------------------------------------------------

/-- Once a bubble has moved on to MEM, ID waits for nothing: every register is read (R137). -/
theorem cycle_of_bubble_in_ex {s : State} (h : Latches s) (hidex : s.idex = .bubble)
    (hnext : (cycle s).idex.ctl = nopCtl) :
    stallSignal (cycle s) = false ∧ ∀ r, resolve (cycle s).idex (cycle s).exmem r = .fromRegister := by
  obtain ⟨hctl, -⟩ := cycle_exmem h
  rw [hidex] at hctl
  exact ⟨stallSignal_of_nops hnext hctl, resolve_of_nops hnext hctl⟩

/-- ID decodes the bubble of a jump to NOPCTL (R61, R139). -/
theorem cycle_idex_ctl_of_zero {s : State} (h : Latches s) (hins : s.ifid.ins = some 0) :
    (cycle s).idex.ctl = nopCtl := by
  obtain ⟨m, x, -, -, hcycle⟩ := cycle_of_latches h
  rw [hcycle, latch_idex, idStage_ctl_of_holdsNop (holdsNop_of_zero hins)]

/-- A producer in EX that is stalled for is in MEM after the cycle, behind a bubble. -/
theorem cycle_of_stalled_producer {s : State} {r : RegSel} (h : Latches s)
    (hex : produces s.idex.ctl s.idex.selC r = true) (hstall : stallSignal s = true) :
    (cycle s).idex = .bubble ∧ (cycle s).exmem.ctl = s.idex.ctl ∧
      resolve (cycle s).idex (cycle s).exmem r =
        if s.idex.ctl.writeLo = true ∧ s.idex.ctl.writeHi = true then .memFwd else .stall := by
  obtain ⟨hctl, hsel⟩ := cycle_exmem h
  have hidex := cycle_idex_of_squash h (.inr hstall)
  have hmem : produces (cycle s).exmem.ctl (cycle s).exmem.selC r = true := by rw [hctl, hsel, hex]
  refine ⟨hidex, hctl, ?_⟩
  rw [resolve_of_producer_in_mem (by rw [hidex]; rfl) hmem, hctl]

/-- Settles O52: the stalled-for producer moves on to MEM, from where a whole word is forwarded and a lone high byte is
waited for once more. -/
theorem loadUseStallsOneCycle : Obligations.LoadUseStallsOneCycle := by
  intro s r h hwben hsel hr
  have hex : produces s.idex.ctl s.idex.selC r = true := produces_iff.mpr ⟨hwben, hsel⟩
  refine ⟨fun hsrc hlo hhi => ?_, fun hlo hj => ?_⟩
  · have hstall : stallSignal s = true :=
      stallSignal_of_operand hr (by rw [resolve_of_producer_in_ex hex]; simp [hsrc])
    obtain ⟨hidex, hctl, hres⟩ := cycle_of_stalled_producer h hex hstall
    have hidexctl : (cycle s).idex.ctl = nopCtl := by rw [hidex, IdEx.bubble]
    refine ⟨hstall, hidexctl, ?_, by rw [hres, if_pos ⟨hlo, hhi⟩], fun hj => ?_, fun hj => ?_⟩
    · exact stallSignal_of_whole_word_in_mem hidexctl (by rw [hctl, hlo]) (by rw [hctl, hhi])
    · exact (cycle_of_stall h hj hstall).symm
    · obtain ⟨y, -, -, hifid⟩ := cycle_of_jump h hj
      have hins : (cycle s).ifid.ins = some 0 := by rw [hifid]
      exact ⟨hins, fun h' => cycle_of_bubble_in_ex h' hidex (cycle_idex_ctl_of_zero h' hins)⟩
  · have hstall : stallSignal s = true :=
      stallSignal_of_operand hr (by rw [resolve_of_producer_in_ex hex]; simp [hlo])
    obtain ⟨hidex, -, hres⟩ := cycle_of_stalled_producer h hex hstall
    obtain ⟨-, hheld⟩ := cycle_of_stall h hj hstall
    have hstall' : stallSignal (cycle s) = true :=
      stallSignal_of_operand (by rwa [hheld]) (by rw [hres]; simp [hlo])
    refine ⟨hstall, hheld, hstall', fun h' => ?_⟩
    obtain ⟨-, hheld'⟩ := cycle_of_stall h' (by rw [hidex]; rfl) hstall'
    obtain ⟨hgo, hread⟩ := cycle_of_bubble_in_ex h' hidex (by rw [cycle_idex_of_squash h' (.inr hstall'), IdEx.bubble])
    exact ⟨hheld'.trans hheld, hgo, hread r⟩

/-- The mnemonics that the flags hazard holds back: the six branches, ADC and SBC (R138). -/
abbrev IsFlagReader (m : Mnemonic) : Prop :=
  m = .beq ∨ m = .bne ∨ m = .blt ∨ m = .bgt ∨ m = .bltu ∨ m = .bgtu ∨ m = .adc ∨ m = .sbc

/-- The words with both top bits set are those of the six branches, ADC and SBC (R59, R138). -/
theorem topBits_iff (w : Word) :
    w.extractLsb' 14 2 = 3 ↔ ∃ m, mnemonicOf (opField w) = some m ∧ IsFlagReader m := by
  have hrows : ∀ op : BitVec 5, op.extractLsb' 3 2 = 3 ↔ ∃ m ∈ mnemonicOf op, IsFlagReader m := by decide
  have hfield : (opField w).extractLsb' 3 2 = w.extractLsb' 14 2 := by
    ext k hk
    simp [opField, show 3 + k < 5 by omega, ← Nat.add_assoc]
  rw [← hfield]
  exact hrows (opField w)

/-- Where the flags hazard holds (R138). -/
theorem flagsHazard_iff (w : Word) (x : IdEx) :
    flagsHazard w x = true ↔ x.ctl.fi = true ∧ ∃ m, mnemonicOf (opField w) = some m ∧ IsFlagReader m := by
  rw [← topBits_iff, flagsHazard, Bool.and_eq_true, beq_iff_eq, and_comm]

/-- Settles O53: the hazard stalls ID, which leaves a bubble in EX, and the cycle latches the flags it waits for. -/
theorem flagsHazardStallsOneCycle : Obligations.FlagsHazardStallsOneCycle := by
  refine ⟨flagsHazard_iff, fun s h hj hhazard => ?_⟩
  have hstall : stallSignal s = true := (stallSignal_eq_true_iff s).mpr (.inr (.inr hhazard))
  obtain ⟨-, hheld⟩ := cycle_of_stall h hj hstall
  obtain ⟨hfi, -⟩ := (flagsHazard_iff _ _).mp hhazard
  refine ⟨hstall, hheld, ?_, by rw [cycle_flags h, if_pos hfi]⟩
  rw [cycle_idex_of_squash h (.inr hstall)]
  exact Bool.and_false _

-- WB and HLT -----------------------------------------------------------------------------------------------

/-- What WB leaves in a register: the byte-gated value where the instruction in MEM/WB produces it (R132). -/
theorem reg_wbStage (s : State) (r : RegSel) :
    (wbStage s).reg r = if produces s.memwb.ctl s.memwb.selC r then
      gateBytes (s.reg r) (writeBackValue s.memwb.ctl s.memwb.y s.memwb.d) s.memwb.ctl.writeLo s.memwb.ctl.writeHi
      else s.reg r :=
  regOf_portC ..

/-- WB's value is the ALU's result or the bus (R132). -/
theorem writeBackValue_eq (c : ControlWord) (y : Option Word) (d : RegVal) :
    writeBackValue c y d = if c.wbSrc = .alu then .ofOption y else d := by
  cases hsrc : c.wbSrc <;> simp [writeBackValue, hsrc]

/-- A cycle that latches makes WB's register writes and counts, and no other. -/
theorem cycle_of_wbStage {s : State} (h : Latches s) :
    (cycle s).regs = (wbStage s).regs ∧ (cycle s).retired = (wbStage s).retired ∧ (cycle s).cycles = s.cycles + 1 := by
  obtain ⟨m, x, hm, -, hcycle⟩ := cycle_of_latches h
  obtain ⟨hregs, -, -, -, hretired, -⟩ := memStage_after hm
  rw [hcycle]
  exact ⟨hregs, hretired, rfl⟩

/-- Settles O58: WB makes one byte-gated write through port C, and MEM and EX touch neither registers nor counts. -/
theorem writeBackStageRules : Obligations.WriteBackStageRules := by
  intro s v hv
  rw [← writeBackValue_eq] at hv
  refine ⟨fun r hr => ?_, fun r hr => ?_, rfl, fun h => ?_⟩
  · rw [reg_wbStage, if_pos (produces_iff.mpr hr), ← hv]
    exact ⟨rfl, rfl⟩
  · rw [reg_wbStage, if_neg (mt produces_iff.mp hr)]
  · obtain ⟨-, hcounts⟩ := cycle_of_wbStage h
    exact hcounts

/-- At the cycle level, past the gate, a step is a clock cycle (R131). -/
theorem step_of_atCycle {s : State} (h : AtCycle s) : step s = .next (cycle s) := by
  obtain ⟨hrst, hfaulted, hhalted, hready, hlevel⟩ := h
  simp [step, State.gate, hrst, hfaulted, hhalted, hready, hlevel]

/-- A clock cycle leaves the reset input alone (R129). -/
@[simp] theorem cycle_rst (s : State) : (cycle s).rst = s.rst := by
  obtain ⟨_, -, hcycle⟩ | ⟨m, _, hm, -, hcycle⟩ | ⟨m, _, hm, -, hcycle⟩ := cycle_cases s
  · simp [hcycle]
  all_goals
    obtain ⟨-, -, hrst, -⟩ := memStage_after hm
    simp [hcycle, hrst]

/-- The stop after HLT answers itself while reset is released (R30). -/
theorem step_of_halted {s : State} (hrst : s.rst = false) (hfaulted : s.faulted = none) (hhalted : s.halted = true) :
    step s = .fault .halted :=
  step_of_gate (by simp [State.gate, hrst, hfaulted, hhalted])

/-- Settles O59: the cycle latches HLT's bit, makes the one write that WB makes, and the gate stops the next step. -/
theorem haltTakesEffectInEx : Obligations.HaltTakesEffectInEx := by
  intro s hat h hhlt
  have ⟨hrst, _, _, _, _⟩ := hat
  have ⟨_, hfaulted⟩ := h
  have hhalted : (cycle s).halted = true := by
    obtain ⟨m, x, -, -, hcycle⟩ := cycle_of_latches h
    rw [hcycle, latch_halted, hhlt]
  obtain ⟨hregs, -⟩ := cycle_of_wbStage h
  exact ⟨step_of_atCycle hat, hhalted, hregs, step_of_halted (by rw [cycle_rst, hrst]) hfaulted hhalted⟩

end Sys2Proof.Machine

namespace Sys2Proof.Machine

-- What the ALU makes of defined operands -------------------------------------------------------------------

theorem alu_add_of_words {a r : RegVal} {x y : Word} (ha : a.word? = some x) (hr : r.word? = some y) (cin : Bool) :
    alu .add a r cin = (aluAdd x y cin).raw := by
  simp [alu, aluOnDefined, ha, hr]

theorem alu_sub_of_words {a r : RegVal} {x y : Word} (ha : a.word? = some x) (hr : r.word? = some y) (cin : Bool) :
    alu .sub a r cin = (aluSub x y cin).raw := by
  simp [alu, aluOnDefined, ha, hr]

/-- A logic function of two defined operands; LOGIC_CV takes the right one as a whole word (R76). -/
theorem alu_logic_of_words {op : LogicOp} {a r : RegVal} {x y v : Word} (ha : a.word? = some x)
    (hr : r.word? = some y) (hv : logicValue op x (.ofWord y) = some v) (cin : Bool) :
    alu (.logic op) a r cin = (logicOut op x (.ofWord y) v).raw := by
  rw [RegVal.eq_ofWord_of_word? hr]
  simp [alu, ha, hv]

/-- NOT takes its right operand as it is (R84). -/
theorem alu_not_of_word {a : RegVal} {x : Word} (ha : a.word? = some x) (r : RegVal) (cin : Bool) :
    alu (.logic .not) a r cin = (logicOut .not x r (~~~x)).raw := by
  simp [alu, ha, logicValue]

-- What a stage does with one instruction -------------------------------------------------------------------

/-- The ALU's output for what ID/EX holds (R134). -/
abbrev exAlu (x : IdEx) : RawAlu := alu x.ctl.aluOp x.a (rightOperand x.ctl.selRight x.b x.ins) x.ctl.cin

/-- What EX latches of what ID/EX holds, where it raises no fault (R134). -/
def exLatch (x : IdEx) : ExMem :=
  ⟨x.ctl, (exAlu x).y, storeOperand x.ctl.selStore x.b x.ins x.pc, x.selC, x.pc, x.tag⟩

/-- EX completes where its checks pass and a jump has a target (R134). -/
theorem exStage_completes {x : IdEx} (hfault : exFault x = none)
    (hj : x.ctl.j = true → (exAlu x).y.isSome = true) (pc : Word) : ∃ o, exStage pc x = .ok o := by
  unfold exStage
  rw [hfault]
  dsimp only
  split
  · next h =>
    obtain ⟨y, hy⟩ := Option.isSome_iff_exists.mp (hj h)
    exact ⟨_, by rw [hy]⟩
  · exact ⟨_, rfl⟩

/-- MEM without an access carries the store operand where it is asserted (R133). -/
theorem memStage_of_no_access {s : State} (hsound : s.exmem.ctl.sound = true) (hload : s.exmem.ctl.memLoad = false)
    (hstore : s.exmem.ctl.memStore = false) :
    memStage s = .ok (memLatch s.exmem s (if s.exmem.ctl.assertStoreOp then s.exmem.sop else .undef)) := by
  simp [memStage, (memCheck_eq_none _).mpr hsound, hload, hstore]

/-- MEM's load (R133). -/
theorem memStage_of_load {s : State} {e : Word} (hsound : s.exmem.ctl.sound = true)
    (hload : s.exmem.ctl.memLoad = true) (he : s.exmem.y = some e) :
    memStage s = .ok (memLatch s.exmem (s.afterLoad e) (s.loadValue e)) := by
  simp [memStage, (memCheck_eq_none _).mpr hsound, hload, he]

/-- MEM's store (R133). -/
theorem memStage_of_store {s : State} {e v : Word} (hsound : s.exmem.ctl.sound = true)
    (hload : s.exmem.ctl.memLoad = false) (hstore : s.exmem.ctl.memStore = true) (he : s.exmem.y = some e)
    (hv : s.exmem.sop.word? = some v) :
    memStage s = .ok (memLatch s.exmem (s.storeWord e v)
      (if s.exmem.ctl.assertStoreOp then s.exmem.sop else .undef)) := by
  simp [memStage, (memCheck_eq_none _).mpr hsound, hload, hstore, he, hv]

theorem SameStorage.symm {s t : State} (h : SameStorage s t) : SameStorage t s := by
  obtain ⟨himem, hdmem, hevents, hdraws⟩ := h
  exact ⟨himem.symm, hdmem.symm, hevents.symm, hdraws.symm⟩

theorem SameStorage.trans {s t u : State} (h : SameStorage s t) (h' : SameStorage t u) : SameStorage s u := by
  obtain ⟨himem, hdmem, hevents, hdraws⟩ := h
  obtain ⟨himem', hdmem', hevents', hdraws'⟩ := h'
  exact ⟨himem'.trans himem, hdmem'.trans hdmem, hevents'.trans hevents, hdraws'.trans hdraws⟩

/-- A load in two states of one storage and one platform gives one value and leaves one storage. -/
theorem SameStorage.load {s u : State} (h : SameStorage s u) (hplatform : u.platform = s.platform) (e : Word) :
    u.loadValue e = s.loadValue e ∧ SameStorage (s.afterLoad e) (u.afterLoad e) := by
  obtain ⟨himem, hdmem, hevents, hdraws⟩ := h
  refine ⟨by simp only [State.loadValue, hplatform, hdmem, hdraws], ?_⟩
  simp only [State.afterLoad, hplatform]
  split <;> simp [SameStorage, himem, hdmem, hevents, hdraws]

/-- A store in two states of one storage and one platform leaves one storage. -/
theorem SameStorage.store {s u : State} (h : SameStorage s u) (hplatform : u.platform = s.platform) (e v : Word) :
    SameStorage (s.storeWord e v) (u.storeWord e v) := by
  obtain ⟨himem, hdmem, hevents, hdraws⟩ := h
  unfold State.storeWord
  rw [hplatform]
  split
  · simp [SameStorage, himem, hdmem, hevents, hdraws]
  · split <;> simp [SameStorage, himem, hdmem, hevents, hdraws]

-- One instruction from EX to WB ----------------------------------------------------------------------------

/-- MEM and WB take what EX/MEM holds, from the registers, memories and devices of `s`, to those of `t`. -/
def BackEnd (s t : State) (y : ExMem) : Prop :=
  ∀ u, SameStorage s u → u.platform = s.platform → u.exmem = y → ∃ m, memStage u = .ok m ∧ SameStorage t m.after ∧
    t.regs = portC s.regs m.memwb.ctl m.memwb.selC (writeBackValue m.memwb.ctl m.memwb.y m.memwb.d)

/-- EX, MEM and WB take what ID/EX holds, its operands read in `s`, to the effects that `t` shows; IF's PC is then two past
`s`'s (R100). -/
structure Carries (s t : State) (x : IdEx) : Prop where
  noFault : exFault x = none
  flags : t.flags = if x.ctl.fi then (exAlu x).flags else s.flags
  jumps : x.ctl.j = true → (exAlu x).y.map (jumpTarget x.ctl (s.pc + 2)) = some t.pc
  continues : x.ctl.j = false → t.pc = s.pc + 1
  retired : t.retired = if x.ctl = nopCtl then s.retired else s.retired + 1
  backEnd : BackEnd s t (exLatch x)

/-- The pipeline does not read the word that the instruction level keeps in `ir`. -/
theorem Carries.of_ir {s t : State} {w : Word} {x : IdEx} (h : Carries { s with ir := w } t x) : Carries s t x :=
  ⟨h.noFault, h.flags, h.jumps, h.continues, h.retired, h.backEnd⟩

/-- What ID/EX holds of the instruction word `w` at PC with control word `c`, its operands read from the registers (R135). -/
def inEx (s : State) (w : Word) (c : ControlWord) : IdEx :=
  ⟨c, s.reg (selA w), s.reg (selB w), some w, some s.pc, some (selC w), none⟩

/-- The back end of an instruction that makes no access: WB's write is all it does. -/
theorem backEnd_of_no_access {s t : State} {x : IdEx} (hsound : x.ctl.sound = true) (hload : x.ctl.memLoad = false)
    (hstore : x.ctl.memStore = false) (hstorage : SameStorage s t)
    (hregs : t.regs = portC s.regs x.ctl x.selC (writeBackValue x.ctl (exAlu x).y
      (if x.ctl.assertStoreOp then storeOperand x.ctl.selStore x.b x.ins x.pc else .undef))) :
    BackEnd s t (exLatch x) := by
  intro u hu _ hy
  refine ⟨_, memStage_of_no_access (by rwa [hy]) (by rwa [hy]) (by rwa [hy]), hstorage.symm.trans hu, ?_⟩
  rw [hy]
  exact hregs

/-- The rows that write an ALU result and its flags (R65). -/
theorem carries_aluRow {s : State} {w : Word} {op : AluOp} {cin : Bool} {right : SelRight} {usesB : Bool} {o : AluOut}
    (hA : (s.reg (selA w)).word?.isSome = true) (hB : usesB = true → (s.reg (selB w)).word?.isSome = true)
    (halu : alu op (s.reg (selA w)) (rightOperand right (s.reg (selB w)) (some w)) cin = o.raw) :
    Carries s (s.commitAlu (selC w) o) (inEx s w (aluRow op cin right usesB)) where
  noFault := (exFault_eq_none_iff _).mpr ⟨rfl, fun _ => hA, hB⟩
  flags := (congrArg RawAlu.flags halu).symm
  jumps := nofun
  continues _ := rfl
  retired := by simp [inEx, aluRow, nopCtl]
  backEnd := by
    refine backEnd_of_no_access (by rfl) rfl rfl (by simp [SameStorage]) ?_
    simp [inEx, aluRow, portC, writeBackValue, exAlu, halu, AluOut.raw, RegVal.ofOption]

/-- The rows that compare (R65). -/
theorem carries_compareRow {s : State} {w : Word} {right : SelRight} {usesB : Bool} {o : AluOut}
    (hA : (s.reg (selA w)).word?.isSome = true) (hB : usesB = true → (s.reg (selB w)).word?.isSome = true)
    (halu : alu .sub (s.reg (selA w)) (rightOperand right (s.reg (selB w)) (some w)) true = o.raw) :
    Carries s (s.commitFlags o) (inEx s w (compareRow right usesB)) where
  noFault := (exFault_eq_none_iff _).mpr ⟨rfl, fun _ => hA, hB⟩
  flags := (congrArg RawAlu.flags halu).symm
  jumps := nofun
  continues _ := rfl
  retired := by simp [inEx, compareRow, nopCtl]
  backEnd := backEnd_of_no_access (by rfl) rfl rfl (by simp [SameStorage]) rfl

/-- The rows that write a constant (R65). -/
theorem carries_constantRow (s : State) (w : Word) (sel : SelStore) (lo : Bool) :
    Carries s (s.commit (selC w) (gateBytes (s.reg (selC w))
        (storeOperand sel (s.reg (selB w)) (some w) (some s.pc)) lo true))
      (inEx s w (constantRow sel lo)) where
  noFault := rfl
  flags := rfl
  jumps := nofun
  continues _ := rfl
  retired := by simp [inEx, constantRow, nopCtl]
  backEnd := backEnd_of_no_access (by rfl) rfl rfl (by simp [SameStorage]) rfl

/-- NOP (R65). -/
theorem carries_nop (s : State) (w : Word) : Carries s s.skip (inEx s w nopCtl) where
  noFault := rfl
  flags := rfl
  jumps := nofun
  continues _ := rfl
  retired := rfl
  backEnd := backEnd_of_no_access (by rfl) rfl rfl (by simp [SameStorage]) rfl

/-- The row of a relative jump that is taken: IF's PC is two past the jump's own (R100, R136). -/
theorem carries_relativeRow_taken (s : State) (w : Word) :
    Carries s (s.jumpTo (relativeTarget s.pc (imm11Field w))) (inEx s w (relativeRow true)) where
  noFault := rfl
  flags := rfl
  jumps _ := congrArg (Option.map _) (RegVal.word?_ofWord _)
  continues := nofun
  retired := by simp [inEx, relativeRow, nopCtl]
  backEnd := backEnd_of_no_access (by rfl) rfl rfl (by simp [SameStorage]) rfl

/-- The row of a branch that is not taken (R66). -/
theorem carries_relativeRow_not_taken (s : State) (w : Word) :
    Carries s (s.retire none) (inEx s w (relativeRow false)) where
  noFault := rfl
  flags := rfl
  jumps := nofun
  continues _ := rfl
  retired := by simp [inEx, relativeRow, nopCtl]
  backEnd := backEnd_of_no_access (by rfl) rfl rfl (by simp [SameStorage]) rfl

/-- The address or target that EX makes of a base register and an immediate (R43, R101). -/
theorem alu_add_baseOffset {a r : RegVal} {base : Word} {imm : BitVec 5} (ha : a.word? = some base)
    (hr : r.word? = some (sext5 imm)) : (alu .add a r false).y = some (baseOffset base imm) := by
  rw [alu_add_of_words ha hr]
  exact congrArg some (aluAdd_y_false _ _)

/-- LOAD (R65): MEM reads, and WB takes the bus. -/
theorem carries_load {s : State} {w base : Word} (ha : (s.reg (selA w)).word? = some base) :
    Carries s ((s.afterLoad (baseOffset base (imm5Field w))).commit (selC w)
      (s.loadValue (baseOffset base (imm5Field w)))) (inEx s w (controlRow .load false)) where
  noFault := (exFault_eq_none_iff _).mpr ⟨rfl, fun _ => by simp [inEx, ha], nofun⟩
  flags := by simp [inEx, controlRow, nopCtl]
  jumps := nofun
  continues _ := by simp
  retired := by simp [inEx, controlRow, nopCtl]
  backEnd := by
    intro u hu hplatform hy
    obtain ⟨hvalue, hafter⟩ := hu.load hplatform (baseOffset base (imm5Field w))
    refine ⟨_, memStage_of_load (by rw [hy]; rfl) (by rw [hy]; rfl)
      (by rw [hy]; exact alu_add_baseOffset ha (RegVal.word?_ofWord _)), hafter, ?_⟩
    rw [hy, hvalue, State.commit_regs, State.afterLoad_regs]
    rfl

/-- STORE (R65): MEM writes, and WB nothing. That the instruction level notes the old word changes no storage. -/
theorem carries_store {s : State} {w base v : Word} (ha : (s.reg (selA w)).word? = some base)
    (hb : (s.reg (selB w)).word? = some v) :
    Carries s (((s.noteStale (baseOffset base (imm5sField w))).storeWord (baseOffset base (imm5sField w)) v).retire none)
      (inEx s w (controlRow .store false)) where
  noFault := (exFault_eq_none_iff _).mpr ⟨rfl, fun _ => by simp [inEx, ha], fun _ => by simp [inEx, hb]⟩
  flags := by simp [inEx, controlRow, nopCtl]
  jumps := nofun
  continues _ := by simp
  retired := by simp [inEx, controlRow, nopCtl]
  backEnd := by
    intro u hu hplatform hy
    have hnoted : SameStorage (s.noteStale (baseOffset base (imm5sField w))) u :=
      SameStorage.trans (t := s) (by simp [SameStorage]) hu
    refine ⟨_, memStage_of_store (by rw [hy]; rfl) (by rw [hy]; rfl) (by rw [hy]; rfl)
      (by rw [hy]; exact alu_add_baseOffset ha (RegVal.word?_ofWord _)) (by rw [hy]; exact hb),
      hnoted.store (by simpa using hplatform) _ _, ?_⟩
    rw [hy, State.retire_regs, State.storeWord_regs, State.noteStale_regs]
    rfl

/-- JR (R65). -/
theorem carries_jr {s : State} {w base : Word} (ha : (s.reg (selA w)).word? = some base) :
    Carries s (s.jumpTo (baseOffset base (imm5Field w))) (inEx s w (controlRow .jr false)) where
  noFault := (exFault_eq_none_iff _).mpr ⟨rfl, fun _ => by simp [inEx, ha], nofun⟩
  flags := rfl
  jumps _ := congrArg (Option.map _) (alu_add_baseOffset ha (RegVal.word?_ofWord _))
  continues := nofun
  retired := by simp [inEx, controlRow, nopCtl]
  backEnd := backEnd_of_no_access (by rfl) rfl rfl (by simp [SameStorage]) rfl

/-- JALR (R65): the link is the store operand. -/
theorem carries_jalr {s : State} {w base : Word} (ha : (s.reg (selA w)).word? = some base) :
    Carries s ((s.setReg (selC w) (.ofWord (s.pc + 1))).jumpTo (baseOffset base (imm5Field w)))
      (inEx s w (controlRow .jalr false)) where
  noFault := (exFault_eq_none_iff _).mpr ⟨rfl, fun _ => by simp [inEx, ha], nofun⟩
  flags := rfl
  jumps _ := congrArg (Option.map _) (alu_add_baseOffset ha (RegVal.word?_ofWord _))
  continues := nofun
  retired := by simp [inEx, controlRow, nopCtl]
  backEnd := backEnd_of_no_access (by rfl) rfl rfl (by simp [SameStorage]) rfl

/-- A branch that completes goes through the pipeline as the row of its condition. -/
theorem carries_branch {s t : State} {w : Word} {cond : Option Bool} (h : s.branch cond (imm11Field w) = .next t) :
    ∃ bit, cond = some bit ∧ Carries s t (inEx s w (relativeRow bit)) := by
  obtain ⟨hcond, rfl⟩ | ⟨hcond, rfl⟩ := State.branch_next.mp h
  · exact ⟨true, hcond, carries_relativeRow_taken s w⟩
  · exact ⟨false, hcond, carries_relativeRow_not_taken s w⟩

/-- An instruction but HLT that completes has the effects that EX, MEM and WB give its row of the decode table. -/
theorem exec_carries {s t : State} {w : Word} {i : Instr} (hir : s.ir = w) (hi : decode w = .ok i) (hhlt : i ≠ .hlt)
    (h : exec i s = .next t) : Carries s t (inEx s w (decodeControl (opField w) s.flags false)) := by
  obtain ⟨m, hm, rfl⟩ := decode_eq_ok_iff.mp hi
  have himm5 (b : RegVal) : (rightOperand .imm5 b (some w)).word? = some (sext5 (imm5Field w)) :=
    RegVal.word?_ofWord _
  cases m
  case hlt => exact absurd rfl hhlt
  case beq | bne | blt | bgt | bltu | bgtu =>
    obtain ⟨bit, hcond, hcarries⟩ := carries_branch h
    rwa [decodeControl_of_flag hm (congrArg some hcond)]
  case adc =>
    obtain ⟨c, hc, h⟩ := State.useFlag_next.mp h
    obtain ⟨a, b, ha, hb, h⟩ := State.useRegs_next.mp h
    cases h
    rw [decodeControl_of_flag hm (congrArg some hc)]
    exact carries_aluRow (by simp [ha]) (by simp [hb]) (alu_add_of_words ha hb c)
  case sbc =>
    obtain ⟨c, hc, h⟩ := State.useFlag_next.mp h
    obtain ⟨a, b, ha, hb, h⟩ := State.useRegs_next.mp h
    cases h
    rw [decodeControl_of_flag hm (congrArg some hc)]
    exact carries_aluRow (by simp [ha]) (by simp [hb]) (alu_sub_of_words ha hb c)
  all_goals rw [decodeControl_of_no_flag hm rfl]
  case nop => cases h; exact carries_nop s w
  case li => cases h; exact carries_constantRow s w .imm8Lo true
  case lui => cases h; exact carries_constantRow s w .imm8Hi false
  case jmp => cases h; exact carries_relativeRow_taken s w
  case add =>
    obtain ⟨a, b, ha, hb, h⟩ := State.useRegs_next.mp h
    cases h
    exact carries_aluRow (by simp [ha]) (by simp [hb]) (alu_add_of_words ha hb _)
  case sub =>
    obtain ⟨a, b, ha, hb, h⟩ := State.useRegs_next.mp h
    cases h
    exact carries_aluRow (by simp [ha]) (by simp [hb]) (alu_sub_of_words ha hb _)
  case cmp =>
    obtain ⟨a, b, ha, hb, h⟩ := State.useRegs_next.mp h
    cases h
    exact carries_compareRow (by simp [ha]) (by simp [hb]) (alu_sub_of_words ha hb _)
  case and | or | xor =>
    obtain ⟨a, b, ha, hb, h⟩ := State.useRegs_next.mp h
    cases h
    exact carries_aluRow (by simp [ha]) (by simp [hb]) (alu_logic_of_words ha hb (by simp [logicValue]) _)
  all_goals obtain ⟨a, ha, h⟩ := State.useReg_next.mp h
  case store =>
    obtain ⟨v, hv, h⟩ := State.useReg_next.mp h
    cases h
    exact carries_store ha hv
  all_goals cases h
  case load => exact carries_load ha
  case jr => exact carries_jr ha
  case jalr => exact carries_jalr ha
  case not =>
    rw [hir]
    exact carries_aluRow (by simp [ha]) nofun (alu_not_of_word ha _ _)
  case addi => exact carries_aluRow (by simp [ha]) nofun (alu_add_of_words ha (himm5 _) _)
  case subi => exact carries_aluRow (by simp [ha]) nofun (alu_sub_of_words ha (himm5 _) _)
  case cmpi => exact carries_compareRow (by simp [ha]) nofun (alu_sub_of_words ha (himm5 _) _)
  case andi | ori | xori =>
    exact carries_aluRow (by simp [ha]) nofun (alu_logic_of_words ha (himm5 _) (by simp [logicValue]) _)

end Sys2Proof.Machine

namespace Sys2Proof.Machine

-- A cycle with NOPCTL in some of its stages ----------------------------------------------------------------

/-- WB does nothing for NOPCTL (R132). -/
theorem wbStage_of_nop {s : State} (h : s.memwb.ctl = nopCtl) : wbStage s = s := by
  simp [wbStage, h, portC, nopCtl]

/-- MEM makes no access for NOPCTL (R133). -/
theorem memStage_of_nop {s : State} (h : s.exmem.ctl = nopCtl) :
    memStage s = .ok (memLatch s.exmem s .undef) := by
  rw [memStage_of_no_access (by rw [h]; rfl) (by rw [h]; rfl) (by rw [h]; rfl), h]
  rfl

/-- EX raises nothing for NOPCTL and asks for no jump (R134). -/
theorem exStage_of_nop {x : IdEx} (h : x.ctl = nopCtl) (pc : Word) :
    ∃ o, exStage pc x = .ok o ∧ o.exmem.ctl = nopCtl ∧ o.jump = none := by
  have hfault : exFault x = none := (exFault_eq_none_iff x).mpr (by simp [h, nopCtl])
  obtain ⟨o, ho⟩ := exStage_completes hfault (by simp [h, nopCtl]) pc
  obtain ⟨-, hexmem, -⟩ := exStage_ok ho
  exact ⟨o, ho, by rw [hexmem, h], by simpa [h, nopCtl] using exStage_jump_isSome ho⟩

/-- A cycle with NOPCTL in MEM latches what EX gives, on what WB leaves. -/
theorem cycle_of_nop_in_mem {s : State} {o : ExOut} (hexmem : s.exmem.ctl = nopCtl)
    (ho : exStage s.pc s.idex = .ok o) : cycle s = latch s (memLatch s.exmem (wbStage s) .undef) o :=
  cycle_eq_latch (memStage_of_nop (s := wbStage s) hexmem) ho

/-- With a NOP in IF/ID and a NOP at PC, IF leaves a NOP in IF/ID: by a jump's bubble, by holding or by fetching. -/
theorem holdsNop_ifStage {s : State} {imem : Memory} {w : Word} (h : HoldsNop s.ifid)
    (hword : Memory.readWord imem s.pc = .ofWord w) (hnop : decode w = .ok .nop) (jump : Option Word) :
    HoldsNop (ifStage s imem jump).2 := by
  unfold ifStage
  split
  · exact holdsNop_of_zero rfl
  · split
    · exact h
    · exact ⟨w, by simp [hword], hnop⟩

/-- With every stage before it idle, ID takes the word in IF/ID and the registers that it selects (R135). -/
theorem idStage_of_nops {s : State} {w : Word} (hidex : s.idex.ctl = nopCtl) (hexmem : s.exmem.ctl = nopCtl)
    (hins : s.ifid.ins = some w) (regs : Vector RegVal 8) (exFwd memFwd : RegVal) :
    idStage s regs exFwd memFwd false =
      ⟨decodeControl (opField w) s.flags s.rst, regOf regs (selA w), regOf regs (selB w), some w, some s.ifid.pc,
        some (selC w), s.ifid.tag⟩ := by
  simp [idStage, stallSignal_of_nops hidex hexmem, resolve_of_nops hidex hexmem, operandValue,
    decodeFetched_of_word hins, idWord, hins]

-- The five cycles of one instruction -----------------------------------------------------------------------

/-- `u` has the registers, memories, device record, retirement count, platform, reset input and fault of `s`: but for the
flags, all that an instruction on its way through the pipeline reads or changes. -/
structure Undisturbed (s u : State) : Prop where
  regs : u.regs = s.regs
  storage : SameStorage s u
  retired : u.retired = s.retired
  platform : u.platform = s.platform
  rst : u.rst = s.rst
  faulted : u.faulted = s.faulted

theorem Undisturbed.trans {s t u : State} (h : Undisturbed s t) (h' : Undisturbed t u) : Undisturbed s u where
  regs := h'.regs.trans h.regs
  storage := h.storage.trans h'.storage
  retired := h'.retired.trans h.retired
  platform := h'.platform.trans h.platform
  rst := h'.rst.trans h.rst
  faulted := h'.faulted.trans h.faulted

/-- A cycle with NOPCTL in MEM and WB disturbs nothing; the instruction in EX latches its flags (R74, R131). -/
theorem undisturbed_cycle {s : State} {o : ExOut} (hexmem : s.exmem.ctl = nopCtl) (hmemwb : s.memwb.ctl = nopCtl)
    (ho : exStage s.pc s.idex = .ok o) :
    Undisturbed s (cycle s) ∧ cycle s = latch s (memLatch s.exmem s .undef) o := by
  have hcycle := cycle_of_nop_in_mem hexmem ho
  rw [wbStage_of_nop hmemwb] at hcycle
  rw [hcycle]
  exact ⟨⟨rfl, ⟨rfl, rfl, rfl, rfl⟩, rfl, rfl, rfl, rfl⟩, rfl⟩

/-- A cycle with NOPCTL in EX, MEM and WB fetches the word at PC and decodes the one in IF/ID. -/
theorem cycle_of_nops {s : State} {w : Word} (hidex : s.idex.ctl = nopCtl) (hexmem : s.exmem.ctl = nopCtl)
    (hmemwb : s.memwb.ctl = nopCtl) (hins : s.ifid.ins = some w) :
    Undisturbed s (cycle s) ∧ (cycle s).flags = s.flags ∧ (cycle s).pc = s.pc + 1 ∧
      (cycle s).ifid = ⟨(Memory.readWord s.imem s.pc).word?, s.pc, none⟩ ∧
      (cycle s).idex = ⟨decodeControl (opField w) s.flags s.rst, s.reg (selA w), s.reg (selB w), some w,
        some s.ifid.pc, some (selC w), s.ifid.tag⟩ ∧
      (cycle s).exmem.ctl = nopCtl ∧ (cycle s).memwb.ctl = nopCtl := by
  obtain ⟨o, ho, hctl, hjump⟩ := exStage_of_nop hidex s.pc
  obtain ⟨hundisturbed, hcycle⟩ := undisturbed_cycle hexmem hmemwb ho
  refine ⟨hundisturbed, ?_⟩
  rw [hcycle]
  simp only [latch_flags, latch_pc, latch_ifid, latch_idex, latch_exmem, latch_memwb, hjump, ifStage,
    stallSignal_of_nops hidex hexmem, Option.isSome_none, idStage_of_nops hidex hexmem hins]
  exact ⟨by rw [hidex]; rfl, rfl, rfl, rfl, hctl, hexmem⟩

/-- The instruction's third cycle: EX executes it, over NOPs on both sides (R134). -/
theorem cycle_with_ex {s t u : State} {x : IdEx} {w : Word} (hx : Carries s t x) (hu : Undisturbed s u)
    (hflags : u.flags = s.flags) (hpc : u.pc = s.pc + 2) (hidex : u.idex = x) (hexmem : u.exmem.ctl = nopCtl)
    (hmemwb : u.memwb.ctl = nopCtl) (hifid : HoldsNop u.ifid) (hword : Memory.readWord u.imem u.pc = .ofWord w)
    (hnop : decode w = .ok .nop) :
    Undisturbed s (cycle u) ∧ (cycle u).flags = t.flags ∧ (cycle u).exmem = exLatch x ∧
      (cycle u).memwb.ctl = nopCtl ∧ (cycle u).idex.ctl = nopCtl ∧ HoldsNop (cycle u).ifid ∧
      (x.ctl.j = true → (cycle u).pc = t.pc) := by
  have htarget (hj : x.ctl.j = true) : (exAlu x).y.isSome = true := by
    simpa using congrArg Option.isSome (hx.jumps hj)
  obtain ⟨o, ho⟩ := exStage_completes hx.noFault htarget u.pc
  obtain ⟨-, hlatched, hraw, -, hjump⟩ := exStage_ok ho
  obtain ⟨hundisturbed, hcycle⟩ := undisturbed_cycle hexmem hmemwb (hidex ▸ ho)
  refine ⟨hu.trans hundisturbed, ?_⟩
  rw [hcycle]
  refine ⟨?_, hlatched, hexmem, idStage_ctl_of_holdsNop hifid .., holdsNop_ifStage hifid hword hnop _, fun hj => ?_⟩
  · rw [latch_flags, hidex, hflags, hraw, hx.flags]
  · obtain ⟨-, y, hy, hload⟩ | ⟨hno, -⟩ := hjump
    · have htaken := hx.jumps hj
      rw [hy, Option.map_some, ← hpc, Option.some.injEq] at htaken
      rw [latch_pc, hload, ← htaken]
      rfl
    · simp [hj] at hno

/-- The instruction's fourth cycle: MEM makes its access (R133). -/
theorem cycle_with_mem {s t u : State} {x : IdEx} (hx : Carries s t x) (hu : Undisturbed s u)
    (hidex : u.idex.ctl = nopCtl) (hexmem : u.exmem = exLatch x) (hmemwb : u.memwb.ctl = nopCtl)
    (hifid : HoldsNop u.ifid) :
    SameStorage t (cycle u) ∧ (cycle u).faulted = s.faulted ∧ (cycle u).flags = u.flags ∧
      (cycle u).idex.ctl = nopCtl ∧ (cycle u).exmem.ctl = nopCtl ∧ (wbStage (cycle u)).regs = t.regs ∧
      (wbStage (cycle u)).retired = t.retired := by
  obtain ⟨m, hm, hstorage, hregs⟩ := hx.backEnd u hu.storage hu.platform hexmem
  obtain ⟨o, ho, hctl, -⟩ := exStage_of_nop hidex u.pc
  have hcycle := cycle_eq_latch (by rwa [wbStage_of_nop hmemwb]) ho
  obtain ⟨hregs', -, -, -, hretired', -, -, -, -, hfaulted'⟩ := memStage_after hm
  obtain ⟨hmctl, -⟩ := memStage_memwb hm
  rw [hexmem] at hmctl
  rw [hcycle]
  refine ⟨hstorage, hfaulted'.trans hu.faulted, ?_, idStage_ctl_of_holdsNop hifid .., hctl, ?_, ?_⟩
  · rw [latch_flags, hidex]
    rfl
  · simp only [wbStage, latch_regs, latch_memwb, hregs', hu.regs, hregs]
  · simp only [wbStage, latch_retired, latch_memwb, hretired', hu.retired, hmctl, hx.retired]
    rfl

/-- The instruction's fifth cycle: WB makes its write (R132). -/
theorem cycle_with_wb {u : State} (hidex : u.idex.ctl = nopCtl) (hexmem : u.exmem.ctl = nopCtl) :
    SameStorage u (cycle u) ∧ (cycle u).faulted = u.faulted ∧ (cycle u).flags = u.flags ∧
      (cycle u).regs = (wbStage u).regs ∧ (cycle u).retired = (wbStage u).retired := by
  obtain ⟨o, ho, -⟩ := exStage_of_nop hidex u.pc
  rw [cycle_of_nop_in_mem hexmem ho]
  refine ⟨⟨rfl, rfl, rfl, rfl⟩, rfl, ?_, rfl, rfl⟩
  rw [latch_flags, hidex]
  rfl

/-- The first two cycles of an instruction fetched into an empty pipeline: it is in EX, its operands read, and the
word after it is in IF/ID (R135, R136). -/
theorem cycles_two_of_idle {s : State} {w w1 : Word} (hrst : s.rst = false) (hidle : s.pipelineIdle = true)
    (hw : Memory.readWord s.imem s.pc = .ofWord w) (hw1 : Memory.readWord s.imem (s.pc + 1) = .ofWord w1) :
    Undisturbed s (cycles s 2) ∧ (cycles s 2).flags = s.flags ∧ (cycles s 2).pc = s.pc + 2 ∧
      (cycles s 2).ifid.ins = some w1 ∧
      (cycles s 2).idex = inEx s w (decodeControl (opField w) s.flags false) ∧
      (cycles s 2).exmem.ctl = nopCtl ∧ (cycles s 2).memwb.ctl = nopCtl := by
  obtain ⟨hins, hidex, hexmem, hmemwb⟩ := of_decide_eq_true hidle
  obtain ⟨hu1, hflags1, hpc1, hifid1, hidex1, hexmem1, hmemwb1⟩ := cycle_of_nops hidex hexmem hmemwb hins
  rw [hw, RegVal.word?_ofWord] at hifid1
  have hidle1 : (cycle s).idex.ctl = nopCtl := by
    rw [hidex1, hrst]
    rfl
  obtain ⟨hu2, hflags2, hpc2, hifid2, hidex2, hexmem2, hmemwb2⟩ :=
    cycle_of_nops hidle1 hexmem1 hmemwb1 (w := w) (by rw [hifid1])
  obtain ⟨himem, -⟩ := hu1.storage
  rw [show cycles s 2 = cycle (cycle s) from rfl]
  refine ⟨hu1.trans hu2, hflags2.trans hflags1, ?_, ?_, ?_, hexmem2, hmemwb2⟩
  · rw [hpc2, hpc1, BitVec.add_assoc]
    rfl
  · rw [hifid2, himem, hpc1, hw1, RegVal.word?_ofWord]
  · rw [hidex2, hflags1, hu1.rst, hrst, hifid1, State.reg_eq, State.reg_eq, hu1.regs]
    rfl

/-- Settles O60: two cycles bring the instruction to EX, and EX, MEM and WB take a cycle each to what its row of the decode
table gives, which is what the instruction level does. -/
theorem pipelineRunsOneInstructionAsExec : Obligations.PipelineRunsOneInstructionAsExec := by
  intro s t w w1 w2 i hrst hfaulted hidle hw hi hhlt hw1 hnop1 hw2 hnop2 hexec
  have hx : Carries s t (inEx s w (decodeControl (opField w) s.flags false)) :=
    (exec_carries (s := { s with ir := w }) rfl hi hhlt hexec).of_ir
  obtain ⟨hu2, hflags2, hpc2, hifid2, hidex2, hexmem2, hmemwb2⟩ := cycles_two_of_idle hrst hidle hw hw1
  obtain ⟨himem2, -⟩ := hu2.storage
  obtain ⟨hu3, hflags3, hexmem3, hmemwb3, hidex3, hifid3, hjump⟩ := cycle_with_ex hx hu2 hflags2 hpc2 hidex2 hexmem2
    hmemwb2 ⟨w1, hifid2, hnop1⟩ (by rw [himem2, hpc2, hw2]) hnop2
  obtain ⟨hstorage4, hfaulted4, hflags4, hidex4, hexmem4, hregs4, hretired4⟩ :=
    cycle_with_mem hx hu3 hidex3 hexmem3 hmemwb3 hifid3
  obtain ⟨hstorage5, hfaulted5, hflags5, hregs5, hretired5⟩ := cycle_with_wb hidex4 hexmem4
  obtain ⟨himem, hdmem, hevents, hdraws⟩ := hstorage4.trans hstorage5
  rw [hidex2]
  exact ⟨hfaulted5.trans (hfaulted4.trans hfaulted), hregs5.trans hregs4, hflags5.trans (hflags4.trans hflags3), himem,
    hdmem, hevents, hdraws, hretired5.trans hretired4, hpc2, hjump, hx.continues⟩

end Sys2Proof.Machine

namespace Sys2Proof

/-- A word that is the word of an instruction decodes to that instruction. -/
theorem decode_of_encode_eq {i : Instr} {w : Word} (h : encode i = w) : decode w = .ok i := by
  rw [← h, decodeReadsBackEncode i]

/-- Settles O6: each word is its instruction packed in the fields of R54, and decoding reads a packed instruction back. -/
theorem exampleWordsDecode : Obligations.ExampleWordsDecode :=
  ⟨decode_of_encode_eq rfl, decode_of_encode_eq rfl, decode_of_encode_eq rfl, decode_of_encode_eq rfl,
    decode_of_encode_eq rfl, decode_of_encode_eq rfl, decode_of_encode_eq rfl, decode_of_encode_eq rfl⟩

end Sys2Proof
